-- ==== Sys2Proof/Word.lean ====
section
/-! DEFINITION. The word types of the machine (00_scope.md R7: bytes of 8 bits, words of 16 bits, numbered from bit 0),
the five flag bits (10_state.md R26) and source text. -/

namespace Sys2Proof

/-- A register, a memory cell or a port: `REG_BITS` = 8 (R6). -/
abbrev Byte := BitVec 8

/-- `pc`, `sp`, a pair, an address operand: `ADDR_BITS` = 16 (R6). -/
abbrev Word := BitVec 16

/-- Source text, operand strings and names (35_assembler.md R120): a list of characters. -/
abbrev Text := List Char

/-- The five single-bit flags of R26: Sign, Zero, AuxiliaryCarry, Parity, Carry. -/
structure Flags where
  s : Bool
  z : Bool
  ac : Bool
  p : Bool
  cy : Bool
  deriving DecidableEq, Repr

end Sys2Proof
end

