-- ==== Sys2Proof/Machine/Bits.lean ====
section
/-! DEFINITION. The byte and word helpers of 00_scope.md R8: `hi`, `lo`, concatenation, parity, and the bit of a truth
value. -/

namespace Sys2Proof.Machine

/-- `hi(v)`: bits 15 to 8 (R8). -/
def hi (v : Word) : Byte := v.extractLsb' 8 8

/-- `lo(v)`: bits 7 to 0 (R8). -/
def lo (v : Word) : Byte := v.extractLsb' 0 8

/-- `a ++ b` for bytes, `a` the more significant: `a*256 + b` (R8). -/
def cat (a b : Byte) : Word := a ++ b

/-- How many bits of a byte are 1. -/
def popCount (v : Byte) : Nat :=
  (v.getLsbD 0).toNat + (v.getLsbD 1).toNat + (v.getLsbD 2).toNat + (v.getLsbD 3).toNat
    + (v.getLsbD 4).toNat + (v.getLsbD 5).toNat + (v.getLsbD 6).toNat + (v.getLsbD 7).toNat

/-- `parity(v)` (R8): true iff the number of 1 bits is even. -/
def parity (v : Byte) : Bool := popCount v % 2 == 0

/-- A truth value as one bit, for the places where a rule concatenates flags. -/
def bit (b : Bool) : BitVec 1 := BitVec.ofBool b

end Sys2Proof.Machine
end

