-- ==== Sys2Proof/Syntax.lean ====
section
/-! DEFINITION. The instructions: one constructor per mnemonic of spec/opcode_table.json (40_engine.md R170) and one
for its ten UNDEFINED rows, with the operand forms of 30_encoding.md R93 to R97 and R104 as types. -/

namespace Sys2Proof

/-- The seven general registers (10_state.md R20). -/
inductive Reg where
  | a | b | c | d | e | h | l
  deriving DecidableEq, Repr

/-- "single register-or-memory" (R93, R104): one of the seven registers, or `M`, the byte at HL (10_state.md R23). -/
inductive RegM where
  | reg (r : Reg)
  | m
  deriving DecidableEq, Repr

/-- The three register pairs BC, DE, HL, named by their high register (R22). -/
inductive Pair where
  | b | d | h
  deriving DecidableEq, Repr

/-- The pair set {B, D, H, SP} of `LXI`, `INX`, `DCX`, `DAD` (R94). -/
inductive PairSp where
  | pair (p : Pair)
  | sp
  deriving DecidableEq, Repr

/-- The pair set {B, D, H, PSW} of `PUSH` and `POP` (R94). -/
inductive PairPsw where
  | pair (p : Pair)
  | psw
  deriving DecidableEq, Repr

/-- The pair set {B, D} of `LDAX` and `STAX` (R94). -/
inductive PairBD where
  | b | d
  deriving DecidableEq, Repr

/-- The instructions of the opcode table (R98). `undefined op` stands for a first byte without a row (R99); it is the
reset instruction when `RESET_OPCODE` names that byte (46_machine_control.md R389). -/
inductive Instr where
  -- Data (41_data_transfer.md)
  | mov (dst src : RegM)
  | mvi (dst : RegM) (d8 : Byte)
  | lxi (rp : PairSp) (d16 : Word)
  | lda (a16 : Word)
  | sta (a16 : Word)
  | lhld (a16 : Word)
  | shld (a16 : Word)
  | ldax (rp : PairBD)
  | stax (rp : PairBD)
  | xchg
  -- Arithmetic (42_arithmetic.md)
  | add (src : RegM)
  | adi (d8 : Byte)
  | adc (src : RegM)
  | aci (d8 : Byte)
  | sub (src : RegM)
  | sui (d8 : Byte)
  | sbb (src : RegM)
  | sbi (d8 : Byte)
  | inr (dst : RegM)
  | dcr (dst : RegM)
  | inx (rp : PairSp)
  | dcx (rp : PairSp)
  | dad (rp : PairSp)
  | daa
  -- Logical (43_logical.md)
  | ana (src : RegM)
  | ani (d8 : Byte)
  | xra (src : RegM)
  | xri (d8 : Byte)
  | ora (src : RegM)
  | ori (d8 : Byte)
  | cmp (src : RegM)
  | cpi (d8 : Byte)
  | rlc
  | rrc
  | ral
  | rar
  | cma
  | cmc
  | stc
  -- Branch (44_branch.md)
  | jmp (a16 : Word)
  | jnz (a16 : Word)
  | jz (a16 : Word)
  | jnc (a16 : Word)
  | jc (a16 : Word)
  | jpo (a16 : Word)
  | jpe (a16 : Word)
  | jp (a16 : Word)
  | jm (a16 : Word)
  | call (a16 : Word)
  | cnz (a16 : Word)
  | cz (a16 : Word)
  | cnc (a16 : Word)
  | cc (a16 : Word)
  | cpo (a16 : Word)
  | cpe (a16 : Word)
  | cp (a16 : Word)
  | cm (a16 : Word)
  | ret
  | rnz
  | rz
  | rnc
  | rc
  | rpo
  | rpe
  | rp
  | rm
  | pchl
  | rst (n : BitVec 3)
  -- Stack (45_stack.md)
  | push (rp : PairPsw)
  | pop (rp : PairPsw)
  | xthl
  | sphl
  -- Peripheral (46_machine_control.md)
  | in_ (p8 : Byte)
  | out (p8 : Byte)
  | hlt
  | nop
  | ei
  | di
  | rim
  | sim
  | undefined (op : Byte)
  deriving DecidableEq, Repr

end Sys2Proof
end

