-- ==== Sys2Proof/Config.lean ====
section
/-! DEFINITION. The implementation parameters of 00_scope.md R6, with the spec's defaults, and the one open text of the
spec (93_implementation_defined.md U14). The parameters are plain data that `State.cfg` holds (log entry 1), so every
statement about a state is a statement about every setting of them. -/

namespace Sys2Proof

/-- `AC_SUB_POLARITY` (R6, R232): what AuxiliaryCarry means after a subtraction. -/
inductive AcPolarity where
  /-- 1 iff the low nibble borrowed (the spec's default). -/
  | borrow
  /-- 1 iff the low nibble did not borrow (a physical 8085). -/
  | carry
  deriving DecidableEq, Repr

/-- `INTERRUPT_OPS` (R6, R100): the treatment of `EI`, `DI`, `RIM`, `SIM`. -/
inductive InterruptOps where
  /-- they raise `UnknownInstruction` (the spec's default). -/
  | refuse
  /-- they run: no effect but the advance, and `RIM` loads 00H. -/
  | nop
  deriving DecidableEq, Repr

/-- `FETCH_PRESENCE` (R6, R174): what makes an instruction present at `pc`. -/
inductive FetchPresence where
  /-- `pc` is the address of an assembled instruction (the spec's default). -/
  | listing
  /-- every address holds an instruction. -/
  | all
  deriving DecidableEq, Repr

/-- `ADDR_WRAP` (R6, R62): a memory address computed outside 0..65535. -/
inductive AddrWrap where
  /-- the access raises `InvalidMemoryAddress` (the spec's default). -/
  | fault
  /-- the address is reduced modulo 65536. DEDUCED (log entry 7): the spec names no other value of the
  parameter and says in R62 that a physical 8085 wraps modulo 65536. -/
  | wrap
  deriving DecidableEq, Repr

/-- The parameters of R6. Constant for the life of a machine: no step and no reset changes them (R482 (b)).
Safe: a statement that does not fix a field holds for every value of it. -/
structure Params where
  /-- `MEM_MAP_LO`: the validator's addressable memory map, lower bound. -/
  memMapLo : Word
  /-- `MEM_MAP_HI`: the validator's addressable memory map, upper bound. -/
  memMapHi : Word
  /-- `ORIGIN`: where the assembler's location counter starts. -/
  origin : Word
  /-- `DB_BASE`: where `DB` places bytes before any `ORG`. -/
  dbBase : Word
  /-- `STEP_LIMIT`: the step budget of one run, at least 1; the spec gives it no value (D15). -/
  stepLimit : Nat
  /-- `CALL_DEPTH_MAX`: the bound on the Call Stack. -/
  callDepthMax : Nat
  /-- `RESET_REG8`: the reset value of each of A, B, C, D, E, H, L. -/
  resetReg8 : Byte
  /-- `RESET_FLAGS`. -/
  resetFlags : Flags
  /-- `RESET_PC`. -/
  resetPc : Word
  /-- `RESET_SP`. -/
  resetSp : Word
  /-- `RESET_PORT`: the reset value of every port. -/
  resetPort : Byte
  /-- `AC_SUB_POLARITY`. -/
  acSubPolarity : AcPolarity
  /-- `PSW_UNUSED`: bits 5, 3, 1 of the flag byte that `PUSH PSW` writes, bit 5 the most significant here. -/
  pswUnused : BitVec 3
  /-- `INTERRUPT_OPS`. -/
  interruptOps : InterruptOps
  /-- `RESET_OPCODE`: the byte that decodes to the reset instruction, if any. -/
  resetOpcode : Option Byte
  /-- `RESET_MNEMONIC`: the assembler's word for the reset instruction, if any. -/
  resetMnemonic : Option Text
  /-- `FETCH_PRESENCE`. -/
  fetchPresence : FetchPresence
  /-- `ADDR_WRAP`. -/
  addrWrap : AddrWrap
  deriving DecidableEq, Repr

/-- The spec's defaults (R6). `STEP_LIMIT` has none: 1000000 is a DESIGN CHOICE (log entry 2), and no statement
rests on it. -/
def Params.default : Params where
  memMapLo := 0x0000
  memMapHi := 0xFFFF
  origin := 0x0000
  dbBase := 0xC000
  stepLimit := 1000000
  callDepthMax := 100
  resetReg8 := 0x00
  resetFlags := { s := false, z := false, ac := false, p := false, cy := false }
  resetPc := 0x0000
  resetSp := 0x0000
  resetPort := 0x00
  acSubPolarity := .borrow
  pswUnused := 0b000
  interruptOps := .refuse
  resetOpcode := none
  resetMnemonic := none
  fetchPresence := .listing
  addrWrap := .fault

/-- `RESET_MEM` (R6): fixed by the source, "default-initialized to zero". -/
def resetMem : Byte := 0x00

/-- The ten first bytes with no row in the opcode table (30_encoding.md R99). -/
def undefinedBytes : List Byte := [0x08, 0x10, 0x18, 0x28, 0x38, 0xCB, 0xD9, 0xDD, 0xED, 0xFD]

/-- What R6 and R99 require of a setting: a positive step budget, and a `RESET_OPCODE` among the ten undefined bytes.
`RESET_MNEMONIC` may be set without it (log entry 27). -/
def Params.wf (c : Params) : Bool :=
  decide (1 ≤ c.stepLimit)
    && (match c.resetOpcode with | none => true | some op => undefinedBytes.contains op)

/-- The free text `hint` of an error record (R431): "any string"; no rule depends on it (U14). Opaque: nothing can
be proved of its value. `what` is the error kind's name and `at_` the line's number. -/
opaque Config.hintText : (what : Text) → (at_ : Nat) → Text

end Sys2Proof
end

