-- ==== Sys2Proof/WellFormed.lean ====
section
/-! DEFINITION. Which terms of `Instr` are instructions of the opcode table. The operand sets of 30_encoding.md R94 and
R96 are types already, so two checks remain. -/

namespace Sys2Proof

/-- The two conditions an `Instr` term must meet to have an encoding: there is no `MOV M,M`, its byte 76H is `HLT`
(R203), and `undefined` holds one of the ten bytes of R99. -/
def Instr.wf : Instr → Bool
  | .mov dst src => !(dst == .m && src == .m)
  | .undefined op => undefinedBytes.contains op
  | _ => true

end Sys2Proof
end

