-- ==== Sys2Proof/Decode.lean ====
section
/-! DEFINITION. 30_encoding.md: the decoder, from the bit patterns of R91 and the fields of R93 to R97, and after it the
encoder, written from the same patterns. The decoder is total on all 256 first bytes (R98); it refuses a byte string
that ends inside an instruction, by name. -/

namespace Sys2Proof

open Sys2Proof.Machine (hi lo cat)

/-! ### Fields of the opcode byte (R93 to R96) -/

/-- `R(code)` (R93): 000 = B, 001 = C, 010 = D, 011 = E, 100 = H, 101 = L, 110 = M, 111 = A. -/
def regOfCode (code : Nat) : RegM :=
  match code with
  | 0 => .reg .b
  | 1 => .reg .c
  | 2 => .reg .d
  | 3 => .reg .e
  | 4 => .reg .h
  | 5 => .reg .l
  | 6 => .m
  | _ => .reg .a

/-- `RP(code)` for `LXI`, `INX`, `DCX`, `DAD` (R94): 00 = B, 01 = D, 10 = H, 11 = SP. -/
def pairSpOfCode (code : Nat) : PairSp :=
  match code with
  | 0 => .pair .b
  | 1 => .pair .d
  | 2 => .pair .h
  | _ => .sp

/-- `RP(code)` for `PUSH` and `POP` (R94): 00 = B, 01 = D, 10 = H, 11 = PSW. -/
def pairPswOfCode (code : Nat) : PairPsw :=
  match code with
  | 0 => .pair .b
  | 1 => .pair .d
  | 2 => .pair .h
  | _ => .psw

/-- Bits 7:6 of the opcode byte. -/
def fieldX (op : Byte) : Nat := (op.extractLsb' 6 2).toNat

/-- Bits 5:3 of the opcode byte: `ddd`, `ccc` or `nnn` (R93, R95, R96). -/
def fieldY (op : Byte) : Nat := (op.extractLsb' 3 3).toNat

/-- Bits 2:0 of the opcode byte: `sss` (R93). -/
def fieldZ (op : Byte) : Nat := (op.extractLsb' 0 3).toNat

/-- Bits 5:4 of the opcode byte: `pp` (R94). -/
def fieldP (op : Byte) : Nat := (op.extractLsb' 4 2).toNat

/-- Bit 3 of the opcode byte, which tells `LXI` from `DAD`, `INX` from `DCX`, `POP` and `PUSH` from their neighbours. -/
def fieldQ (op : Byte) : Nat := (op.extractLsb' 3 1).toNat

/-! ### The decoder -/

/-- First bytes `00......` (R91, R98). `b1` and `b2` are the operand bytes; `d16` and `a16` are `b2 ++ b1` (R97). -/
def decodeX0 (op b1 b2 : Byte) : Instr :=
  match fieldZ op with
  | 0 =>
    match fieldY op with
    | 0 => .nop
    | 4 => .rim
    | 6 => .sim
    | _ => .undefined op
  | 1 =>
    match fieldQ op with
    | 0 => .lxi (pairSpOfCode (fieldP op)) (cat b2 b1)
    | _ => .dad (pairSpOfCode (fieldP op))
  | 2 =>
    match fieldY op with
    | 0 => .stax .b
    | 1 => .ldax .b
    | 2 => .stax .d
    | 3 => .ldax .d
    | 4 => .shld (cat b2 b1)
    | 5 => .lhld (cat b2 b1)
    | 6 => .sta (cat b2 b1)
    | _ => .lda (cat b2 b1)
  | 3 =>
    match fieldQ op with
    | 0 => .inx (pairSpOfCode (fieldP op))
    | _ => .dcx (pairSpOfCode (fieldP op))
  | 4 => .inr (regOfCode (fieldY op))
  | 5 => .dcr (regOfCode (fieldY op))
  | 6 => .mvi (regOfCode (fieldY op)) b1
  | _ =>
    match fieldY op with
    | 0 => .rlc
    | 1 => .rrc
    | 2 => .ral
    | 3 => .rar
    | 4 => .daa
    | 5 => .cma
    | 6 => .stc
    | _ => .cmc

/-- First bytes `01dddsss`: `MOV`, but for 76H, which is `HLT` (R91). -/
def decodeX1 (op : Byte) : Instr :=
  match regOfCode (fieldY op), regOfCode (fieldZ op) with
  | .m, .m => .hlt
  | d, s => .mov d s

/-- First bytes `10...sss`: the eight register forms of the ALU group (R91). -/
def decodeX2 (op : Byte) : Instr :=
  match fieldY op with
  | 0 => .add (regOfCode (fieldZ op))
  | 1 => .adc (regOfCode (fieldZ op))
  | 2 => .sub (regOfCode (fieldZ op))
  | 3 => .sbb (regOfCode (fieldZ op))
  | 4 => .ana (regOfCode (fieldZ op))
  | 5 => .xra (regOfCode (fieldZ op))
  | 6 => .ora (regOfCode (fieldZ op))
  | _ => .cmp (regOfCode (fieldZ op))

/-- First bytes `11......` (R91, R98). -/
def decodeX3 (op b1 b2 : Byte) : Instr :=
  match fieldZ op with
  | 0 =>
    match fieldY op with
    | 0 => .rnz
    | 1 => .rz
    | 2 => .rnc
    | 3 => .rc
    | 4 => .rpo
    | 5 => .rpe
    | 6 => .rp
    | _ => .rm
  | 1 =>
    match fieldQ op with
    | 0 => .pop (pairPswOfCode (fieldP op))
    | _ =>
      match fieldP op with
      | 0 => .ret
      | 1 => .undefined op
      | 2 => .pchl
      | _ => .sphl
  | 2 =>
    match fieldY op with
    | 0 => .jnz (cat b2 b1)
    | 1 => .jz (cat b2 b1)
    | 2 => .jnc (cat b2 b1)
    | 3 => .jc (cat b2 b1)
    | 4 => .jpo (cat b2 b1)
    | 5 => .jpe (cat b2 b1)
    | 6 => .jp (cat b2 b1)
    | _ => .jm (cat b2 b1)
  | 3 =>
    match fieldY op with
    | 0 => .jmp (cat b2 b1)
    | 1 => .undefined op
    | 2 => .out b1
    | 3 => .in_ b1
    | 4 => .xthl
    | 5 => .xchg
    | 6 => .di
    | _ => .ei
  | 4 =>
    match fieldY op with
    | 0 => .cnz (cat b2 b1)
    | 1 => .cz (cat b2 b1)
    | 2 => .cnc (cat b2 b1)
    | 3 => .cc (cat b2 b1)
    | 4 => .cpo (cat b2 b1)
    | 5 => .cpe (cat b2 b1)
    | 6 => .cp (cat b2 b1)
    | _ => .cm (cat b2 b1)
  | 5 =>
    match fieldQ op with
    | 0 => .push (pairPswOfCode (fieldP op))
    | _ =>
      match fieldP op with
      | 0 => .call (cat b2 b1)
      | _ => .undefined op
  | 6 =>
    match fieldY op with
    | 0 => .adi b1
    | 1 => .aci b1
    | 2 => .sui b1
    | 3 => .sbi b1
    | 4 => .ani b1
    | 5 => .xri b1
    | 6 => .ori b1
    | _ => .cpi b1
  | _ => .rst (op.extractLsb' 3 3)

/-- `decode(op, b1, b2)` of 40_engine.md R180: the instruction of a first byte and its operand bytes. An instruction
reads only the operand bytes its length gives it. -/
def decodeInstr (op b1 b2 : Byte) : Instr :=
  match fieldX op with
  | 0 => decodeX0 op b1 b2
  | 1 => decodeX1 op
  | 2 => decodeX2 op
  | _ => decodeX3 op b1 b2

/-- The length in bytes of an instruction (R90, R92): 3 with a 16-bit operand, 2 with an 8-bit one, else 1. -/
def Instr.length : Instr → Nat
  | .lxi _ _ | .lda _ | .sta _ | .lhld _ | .shld _ => 3
  | .jmp _ | .jnz _ | .jz _ | .jnc _ | .jc _ | .jpo _ | .jpe _ | .jp _ | .jm _ => 3
  | .call _ | .cnz _ | .cz _ | .cnc _ | .cc _ | .cpo _ | .cpe _ | .cp _ | .cm _ => 3
  | .mvi _ _ | .adi _ | .aci _ | .sui _ | .sbi _ | .ani _ | .xri _ | .ori _ | .cpi _ => 2
  | .in_ _ | .out _ => 2
  | .mov _ _ | .ldax _ | .stax _ | .xchg => 1
  | .add _ | .adc _ | .sub _ | .sbb _ | .inr _ | .dcr _ | .inx _ | .dcx _ | .dad _ | .daa => 1
  | .ana _ | .xra _ | .ora _ | .cmp _ | .rlc | .rrc | .ral | .rar | .cma | .cmc | .stc => 1
  | .ret | .rnz | .rz | .rnc | .rc | .rpo | .rpe | .rp | .rm | .pchl | .rst _ => 1
  | .push _ | .pop _ | .xthl | .sphl => 1
  | .hlt | .nop | .ei | .di | .rim | .sim | .undefined _ => 1

/-- The length that a first byte alone determines (R92, R101). -/
def opLength (op : Byte) : Nat := (decodeInstr op 0 0).length

/-- Why a byte string is no instruction: the table is total (R98), so only an end inside an instruction is left. -/
inductive DecodeError where
  /-- no byte at all. -/
  | empty
  /-- the first byte asks for `needed` bytes and the string ends before them. -/
  | truncated (op : Byte) (needed : Nat)
  deriving DecidableEq, Repr

/-- The decoder over a byte string, lowest address first: the instruction and the bytes after it. -/
def decode : List Byte → Except DecodeError (Instr × List Byte)
  | [] => .error .empty
  | op :: rest =>
    match opLength op, rest with
    | 1, rest => .ok (decodeInstr op 0 0, rest)
    | 2, b1 :: rest => .ok (decodeInstr op b1 0, rest)
    | 3, b1 :: b2 :: rest => .ok (decodeInstr op b1 b2, rest)
    | n, _ => .error (.truncated op n)

/-- The host's reading of one opcode-table word: byte k of the instruction is bits 8k+7..8k of `w`, every bit from
`nbits` on is 0, and the longest instruction has three bytes. -/
def tableBytes (nbits w : Nat) : List Byte :=
  let v := w % 2 ^ nbits
  [BitVec.ofNat 8 v, BitVec.ofNat 8 (v / 256), BitVec.ofNat 8 (v / 65536)]

/-- The instruction the decoder reads from a table word (see `tableBytes`). -/
def decodeTableWord (nbits w : Nat) : Option Instr :=
  match decode (tableBytes nbits w) with
  | .ok (i, _) => some i
  | .error _ => none

/-! ### The encoder (R91, R103) -/

/-- The register codes of R93. -/
def Reg.code : Reg → BitVec 3
  | .b => 0b000
  | .c => 0b001
  | .d => 0b010
  | .e => 0b011
  | .h => 0b100
  | .l => 0b101
  | .a => 0b111

/-- The register-or-memory codes of R93. -/
def RegM.code : RegM → BitVec 3
  | .reg r => r.code
  | .m => 0b110

/-- The pair codes of R94. -/
def Pair.code : Pair → BitVec 2
  | .b => 0b00
  | .d => 0b01
  | .h => 0b10

/-- The pair codes of R94 with 11 = SP. -/
def PairSp.code : PairSp → BitVec 2
  | .pair p => p.code
  | .sp => 0b11

/-- The pair codes of R94 with 11 = PSW. -/
def PairPsw.code : PairPsw → BitVec 2
  | .pair p => p.code
  | .psw => 0b11

/-- The one-bit pair code of `LDAX` and `STAX` (R94). -/
def PairBD.code : PairBD → BitVec 1
  | .b => 0b0
  | .d => 0b1

/-- The opcode byte of an instruction: the patterns of R91 with the fields filled in, and the single values of R98. -/
def opcodeByte : Instr → Byte
  | .mov d s => 0b01#2 ++ d.code ++ s.code
  | .mvi d _ => 0b00#2 ++ d.code ++ 0b110#3
  | .lxi p _ => 0b00#2 ++ p.code ++ 0b0001#4
  | .lda _ => 0x3A
  | .sta _ => 0x32
  | .lhld _ => 0x2A
  | .shld _ => 0x22
  | .ldax p => 0b000#3 ++ p.code ++ 0b1010#4
  | .stax p => 0b000#3 ++ p.code ++ 0b0010#4
  | .xchg => 0xEB
  | .add s => 0b10000#5 ++ s.code
  | .adi _ => 0xC6
  | .adc s => 0b10001#5 ++ s.code
  | .aci _ => 0xCE
  | .sub s => 0b10010#5 ++ s.code
  | .sui _ => 0xD6
  | .sbb s => 0b10011#5 ++ s.code
  | .sbi _ => 0xDE
  | .inr d => 0b00#2 ++ d.code ++ 0b100#3
  | .dcr d => 0b00#2 ++ d.code ++ 0b101#3
  | .inx p => 0b00#2 ++ p.code ++ 0b0011#4
  | .dcx p => 0b00#2 ++ p.code ++ 0b1011#4
  | .dad p => 0b00#2 ++ p.code ++ 0b1001#4
  | .daa => 0x27
  | .ana s => 0b10100#5 ++ s.code
  | .ani _ => 0xE6
  | .xra s => 0b10101#5 ++ s.code
  | .xri _ => 0xEE
  | .ora s => 0b10110#5 ++ s.code
  | .ori _ => 0xF6
  | .cmp s => 0b10111#5 ++ s.code
  | .cpi _ => 0xFE
  | .rlc => 0x07
  | .rrc => 0x0F
  | .ral => 0x17
  | .rar => 0x1F
  | .cma => 0x2F
  | .cmc => 0x3F
  | .stc => 0x37
  | .jmp _ => 0xC3
  | .jnz _ => 0b11000010
  | .jz _ => 0b11001010
  | .jnc _ => 0b11010010
  | .jc _ => 0b11011010
  | .jpo _ => 0b11100010
  | .jpe _ => 0b11101010
  | .jp _ => 0b11110010
  | .jm _ => 0b11111010
  | .call _ => 0xCD
  | .cnz _ => 0b11000100
  | .cz _ => 0b11001100
  | .cnc _ => 0b11010100
  | .cc _ => 0b11011100
  | .cpo _ => 0b11100100
  | .cpe _ => 0b11101100
  | .cp _ => 0b11110100
  | .cm _ => 0b11111100
  | .ret => 0xC9
  | .rnz => 0b11000000
  | .rz => 0b11001000
  | .rnc => 0b11010000
  | .rc => 0b11011000
  | .rpo => 0b11100000
  | .rpe => 0b11101000
  | .rp => 0b11110000
  | .rm => 0b11111000
  | .pchl => 0xE9
  | .rst n => 0b11#2 ++ n ++ 0b111#3
  | .push p => 0b11#2 ++ p.code ++ 0b0101#4
  | .pop p => 0b11#2 ++ p.code ++ 0b0001#4
  | .xthl => 0xE3
  | .sphl => 0xF9
  | .in_ _ => 0xDB
  | .out _ => 0xD3
  | .hlt => 0x76
  | .nop => 0x00
  | .ei => 0xFB
  | .di => 0xF3
  | .rim => 0x20
  | .sim => 0x30
  | .undefined op => op

/-- The operand bytes after the opcode, low byte first (R97, 20_memory.md R67). -/
def operandBytes : Instr → List Byte
  | .lxi _ w | .lda w | .sta w | .lhld w | .shld w => [lo w, hi w]
  | .jmp w | .jnz w | .jz w | .jnc w | .jc w | .jpo w | .jpe w | .jp w | .jm w => [lo w, hi w]
  | .call w | .cnz w | .cz w | .cnc w | .cc w | .cpo w | .cpe w | .cp w | .cm w => [lo w, hi w]
  | .mvi _ d | .adi d | .aci d | .sui d | .sbi d | .ani d | .xri d | .ori d | .cpi d => [d]
  | .in_ p | .out p => [p]
  | .mov _ _ | .ldax _ | .stax _ | .xchg => []
  | .add _ | .adc _ | .sub _ | .sbb _ | .inr _ | .dcr _ | .inx _ | .dcx _ | .dad _ | .daa => []
  | .ana _ | .xra _ | .ora _ | .cmp _ | .rlc | .rrc | .ral | .rar | .cma | .cmc | .stc => []
  | .ret | .rnz | .rz | .rnc | .rc | .rpo | .rpe | .rp | .rm | .pchl | .rst _ => []
  | .push _ | .pop _ | .xthl | .sphl => []
  | .hlt | .nop | .ei | .di | .rim | .sim | .undefined _ => []

/-- The bytes of an instruction, lowest address first (R90, R103). -/
def encode (i : Instr) : List Byte := opcodeByte i :: operandBytes i

end Sys2Proof
end

