-- ==== Sys2Proof/Machine/State.lean ====
section
/-! DEFINITION. The state of one session (10_state.md, with the assembly-time and block-mode data of 35_assembler.md and
47_block_mode.md), the reasons a step can stop (60_exceptions.md R432), and the state after reset (R45, R480). -/

namespace Sys2Proof.Machine

/-- The register file: seven 8-bit registers (R20). The pairs are views, not storage (R22). -/
structure Regs where
  a : Byte
  b : Byte
  c : Byte
  d : Byte
  e : Byte
  h : Byte
  l : Byte
  deriving DecidableEq, Repr

/-- One line of a block program (R400): one instruction as text, its mnemonic and its operand string. -/
structure Line where
  mnemonic : Text
  operands : Text
  deriving DecidableEq, Repr

/-- A run in block mode (R400, R402): the block map in source order, the first block's label, the cursor
`(cur, idx)` and the Call Stack of (label, index) return points (R36), top first. -/
structure BlockRun where
  blocks : List (Text × List Line)
  first : Text
  cur : Text
  idx : Nat
  callstack : List (Text × Nat)
  deriving DecidableEq, Repr

/-- A row of the Assembled Listing (R156). `lineNo` and `lineText` are the model's own addition: the source line the row
came from, which the error record of R431 names (log entry 18). -/
structure ListingRow where
  address : Word
  label : Text
  mnemonic : Text
  opcode : Byte
  cycles : Nat
  operands : Text
  lineNo : Nat
  lineText : Text
  deriving DecidableEq, Repr

/-- The session's state. The first six fields are the source's Processor State; then the run-time bookkeeping of
R36 to R42; then the Label Table and the Assembled Listing (R158), the block-mode run when there is one (log entry
12), and the parameters of R6, which nothing changes (log entry 1). -/
structure State where
  r : Regs
  pc : Word
  sp : Word
  f : Flags
  /-- Memory (R32): the bytes that are not 00H, addresses strictly rising. -/
  mem : List Host.Cell
  /-- Ports (R33): the ports that are not `RESET_PORT`, numbers strictly rising. -/
  ports : List Host.Cell
  /-- The Call Stack in linear mode (R36), top first. -/
  callstack : List Word
  /-- The step counter (R39). -/
  steps : Nat
  halted : Bool
  /-- Addresses at which the last assembly placed an instruction (R41), strictly rising. -/
  istart : List Nat
  /-- Addresses written by `MemWrite` in this run (R42), strictly rising. -/
  touched : List Nat
  /-- The Label Table (R150): addresses are unbounded because a label may stand just past FFFFH (log entry 19). -/
  labels : List (Text × Nat)
  listing : List ListingRow
  block : Option BlockRun
  cfg : Params
  deriving DecidableEq, Repr

/-- Where a run fault happened (R431): `pc` in linear mode, the cursor in block mode. -/
inductive Place where
  | pc (w : Word)
  | cursor (label : Text) (idx : Nat)
  deriving DecidableEq, Repr

/-- "the expected pattern" that a `SyntaxError` carries (R433): the operand shapes of R131 and the two arities of R132
that surplus separators violate. -/
inductive Expected where
  | oneOperand
  | twoOperands
  | register
  | registerPair
  | immediate8
  | port8
  | address16
  | literal16
  | vector
  deriving DecidableEq, Repr

/-- What `InvalidMemoryAddress` records (R432): the address, or the token that is none (decision D33). -/
inductive BadAddress where
  | address (a : Int)
  | token (t : Text)
  deriving DecidableEq, Repr

/-- What `UnknownInstruction` records (R432): the byte fetched and its address, or the word. -/
inductive UnknownWhat where
  | byte (pc : Word) (op : Byte)
  | word (w : Text)
  deriving DecidableEq, Repr

/-- The seventeen error kinds of R430 with the values R432 records. All are reported by the machine and precise: the
step that raises one has changed nothing but `steps` (R460). Safe: the spec names each and gives its cause. -/
inductive Fault where
  /-- `SyntaxError` (R433), raised by the Syntax Validator. -/
  | syntaxError (expected : Expected) (pos : Nat)
  /-- `MissingSeparator` (R434), raised by the Syntax Validator. -/
  | missingSeparator
  /-- `MissingOperand` (R435), raised by the Syntax Validator. -/
  | missingOperand (pos : Nat)
  /-- `InvalidRegister` (R436), raised by the Syntax Validator. -/
  | invalidRegister (token : Text)
  /-- `InvalidRegisterPair` (R437), raised by the Syntax Validator. -/
  | invalidRegisterPair (token : Text)
  /-- `RegisterPairNotAllowed` (R438), raised by the Syntax Validator. -/
  | registerPairNotAllowed (token : Text)
  /-- `InvalidMemoryAddress` (R439), raised by the Validator, the Assembler, and a step's memory access or operand fetch. -/
  | invalidMemoryAddress (what : BadAddress)
  /-- `InvalidPortAddress` (R440), raised by the Syntax Validator. -/
  | invalidPortAddress (token : Text)
  /-- `MissingReturn`, alias `InfiniteLoop` (R441), raised by the fetch in linear mode. -/
  | missingReturn (pc : Word)
  /-- `InvalidImmediateData` (R442), raised by the Syntax Validator. -/
  | invalidImmediateData (token : Text)
  /-- `UnexpectedOperand` (R443), raised by the Syntax Validator. -/
  | unexpectedOperand (operands : Text)
  /-- `UnknownInstruction` (R444), raised by the Validator, the Assembler, and a step on an undefined byte. -/
  | unknownInstruction (what : UnknownWhat)
  /-- `UndefinedLabel` (R445), raised by Pass 2 and by a taken branch in block mode. -/
  | undefinedLabel (name : Text)
  /-- `StackUnderflow` (R446), raised by a return with an empty Call Stack. -/
  | stackUnderflow (at_ : Place)
  /-- `StackOverflow` (R447), raised by a call with the Call Stack at `CALL_DEPTH_MAX`. -/
  | stackOverflow (at_ : Place)
  /-- `StepLimitExceeded`, alias `RuntimeExceeded` (R448), raised at the start of a step past the budget. -/
  | stepLimitExceeded (at_ : Place)
  /-- `AmbiguousHalt` (R449), raised in block mode at the end of a block. -/
  | ambiguousHalt (label : Text)
  deriving DecidableEq, Repr

/-- What has no meaning in this model. -/
inductive Refusal where
  /-- an instruction without a meaning yet, rejected in its arm of `exec`; safe. -/
  | notModelled (mnemonic : String)
  /-- a step of a run that has ended at `HLT` or the reset instruction: "no further step is taken" (R177, U30);
  raised by `step` on a halted state; safe (log entry 8). -/
  | runEnded
  /-- single-instruction execution of a branch instruction, which the spec leaves undefined (R181, D43); raised by
  the host operation `executeSingle`, never by a step; safe (log entry 24). -/
  | singleBranch
  deriving DecidableEq, Repr

/-- The state at processor construction and after a reset, a constant of the parameters (R45, R480, R481). -/
def State.initial (cfg : Params) : State where
  r := { a := cfg.resetReg8, b := cfg.resetReg8, c := cfg.resetReg8, d := cfg.resetReg8, e := cfg.resetReg8,
         h := cfg.resetReg8, l := cfg.resetReg8 }
  pc := cfg.resetPc
  sp := cfg.resetSp
  f := cfg.resetFlags
  mem := []
  ports := []
  callstack := []
  steps := 0
  halted := false
  istart := []
  touched := []
  labels := []
  listing := []
  block := none
  cfg := cfg

/-- The machine right after reset, with the spec's default parameters (R6, R45). -/
def State.reset : State := State.initial Params.default

end Sys2Proof.Machine
end

