-- ==== Sys2Proof/Machine/Memory.lean ====
section
/-! DEFINITION. The canonical finite forms behind Memory, Ports, `istart` and `touched`: sparse byte maps and address
sets (10_state.md R32, R33, R41, R42). A byte map is relative to the value `dflt` that an unlisted address reads as. -/

namespace Sys2Proof.Machine

/-- The byte at key `a`: the first entry for it, else `dflt`. -/
def cellRead (dflt : Byte) (m : List Host.Cell) (a : Nat) : Byte :=
  match m with
  | [] => dflt
  | (k, v) :: rest => if k = a then v else cellRead dflt rest a

/-- The map without any entry for `a`. -/
def cellErase (m : List Host.Cell) (a : Nat) : List Host.Cell :=
  match m with
  | [] => []
  | (k, v) :: rest => if k = a then cellErase rest a else (k, v) :: cellErase rest a

/-- Put `(a, v)` before the first entry with a larger key. -/
def cellInsert (m : List Host.Cell) (a : Nat) (v : Byte) : List Host.Cell :=
  match m with
  | [] => [(a, v)]
  | (k, w) :: rest => if a < k then (a, v) :: (k, w) :: rest else (k, w) :: cellInsert rest a v

/-- Write `v` at `a`, keeping the canonical form: writing `dflt` removes the entry. -/
def cellWrite (dflt : Byte) (m : List Host.Cell) (a : Nat) (v : Byte) : List Host.Cell :=
  if v = dflt then cellErase m a else cellInsert (cellErase m a) a v

/-- The keys are above `lower` (where given), strictly rising, below `bound`, and no entry holds `dflt`. -/
def cellsWfFrom (dflt : Byte) (bound : Nat) : Option Nat → List Host.Cell → Bool
  | _, [] => true
  | lower, (k, v) :: rest =>
    (match lower with | none => true | some j => decide (j < k)) && decide (k < bound) && decide (v ≠ dflt)
      && cellsWfFrom dflt bound (some k) rest

/-- The canonical form of a byte map. -/
def cellsWf (dflt : Byte) (bound : Nat) (m : List Host.Cell) : Bool := cellsWfFrom dflt bound none m

/-- The canonical form of Memory: 65536 addresses, an unlisted one reads 00H (R32). -/
def Memory.wf (m : List Host.Cell) : Bool := cellsWf resetMem 65536 m

/-- The canonical form of the Ports table: 256 ports, an unlisted one reads `RESET_PORT` (R33, U29). -/
def Ports.wf (dflt : Byte) (m : List Host.Cell) : Bool := cellsWf dflt 256 m

/-- Membership in an address set. -/
def addrMem (xs : List Nat) (a : Nat) : Bool := xs.contains a

/-- Add an address to a strictly rising list. -/
def addrInsert (xs : List Nat) (a : Nat) : List Nat :=
  match xs with
  | [] => [a]
  | x :: rest => if a < x then a :: x :: rest else if a = x then x :: rest else x :: addrInsert rest a

/-- The addresses are above `lower` (where given), strictly rising and below 65536. -/
def addrsWfFrom : Option Nat → List Nat → Bool
  | _, [] => true
  | lower, x :: rest =>
    (match lower with | none => true | some j => decide (j < x)) && decide (x < 65536) && addrsWfFrom (some x) rest

/-- The canonical form of an address set. -/
def addrsWf (xs : List Nat) : Bool := addrsWfFrom none xs

end Sys2Proof.Machine
end

