-- ==== Sys2Proof/Machine/Ops.lean ====
section
/-! DEFINITION. The named operations every meaning is written with: register access (10_state.md R20 to R25), memory
and port access (20_memory.md R62 to R66), the Call Stack (R37, R38), taking a fault (60_exceptions.md R460, R461) and
the reset operation (70_reset_and_hazards.md R480). -/

namespace Sys2Proof.Machine

/-! ### Faults -/

/-- `raise <Kind>(info)` (R8): taking a fault. It ends the operation before any write (R460) and gives the kind to
the host; the machine has no vector, no handler, no saved register and no return from a fault (R461, R462). -/
def raise {α : Type} (k : Fault) : Except Fault α := .error k

/-- A meaning's result as an outcome of a step: a fault ends the step with its kind. -/
def ofExcept (x : Except Fault State) : Host.Outcome State Fault Refusal :=
  match x with
  | .ok s => .next s
  | .error k => .fault k

/-! ### Registers -/

/-- `r[X]` (R8, R20). -/
def Regs.get (r : Regs) : Reg → Byte
  | .a => r.a
  | .b => r.b
  | .c => r.c
  | .d => r.d
  | .e => r.e
  | .h => r.h
  | .l => r.l

/-- `r[X] <- v` (R8, R20). -/
def Regs.set (r : Regs) : Reg → Byte → Regs
  | .a, v => { r with a := v }
  | .b, v => { r with b := v }
  | .c, v => { r with c := v }
  | .d, v => { r with d := v }
  | .e, v => { r with e := v }
  | .h, v => { r with h := v }
  | .l, v => { r with l := v }

/-- The value of a general register. -/
def State.reg (s : State) (x : Reg) : Byte := s.r.get x

/-- Write a general register; nothing else changes. -/
def State.setReg (s : State) (x : Reg) (v : Byte) : State := { s with r := s.r.set x v }

/-- The high register of a pair (R22). -/
def Pair.hiReg : Pair → Reg
  | .b => .b
  | .d => .d
  | .h => .h

/-- The low register of a pair (R22). -/
def Pair.loReg : Pair → Reg
  | .b => .c
  | .d => .e
  | .h => .l

/-- `rp[XY] = r[X]*256 + r[Y]` (R22). -/
def State.pair (s : State) (p : Pair) : Word := cat (s.reg (Pair.hiReg p)) (s.reg (Pair.loReg p))

/-- `rp[XY] <- v`: both halves written back (R22). -/
def State.setPair (s : State) (p : Pair) (v : Word) : State :=
  (s.setReg (Pair.hiReg p) (hi v)).setReg (Pair.loReg p) (lo v)

/-- Write all five flags. -/
def State.setFlags (s : State) (f : Flags) : State := { s with f := f }

/-- Write Carry alone. -/
def State.setCy (s : State) (b : Bool) : State := { s with f := { s.f with cy := b } }

/-- `pc <- target` (R8). -/
def State.setPc (s : State) (w : Word) : State := { s with pc := w }

/-- `sp <- v` (R25). -/
def State.setSp (s : State) (w : Word) : State := { s with sp := w }

/-! ### Memory -/

/-- `mem[a]` (R32). -/
def State.byteAt (s : State) (a : Nat) : Byte := cellRead resetMem s.mem a

/-- `mem[a] <- v; touched <- touched + {a}` (R64). -/
def State.storeByte (s : State) (a : Nat) (v : Byte) : State :=
  { s with mem := cellWrite resetMem s.mem a v, touched := addrInsert s.touched a }

/-- What a computed address outside 0..65535 names: a fault, or its value modulo 65536 when `ADDR_WRAP` says so (R62,
log entry 7). -/
def outsideAddr (s : State) (a : Int) : Except Fault Nat :=
  match s.cfg.addrWrap with
  | .fault => raise (.invalidMemoryAddress (.address a))
  | .wrap => .ok (a % 65536).toNat

/-- The cell a computed address names: the address itself when it is within 0..65535 (R61), and else what `outsideAddr`
says. -/
def effAddr (s : State) (a : Int) : Except Fault Nat :=
  match a with
  | .ofNat n => if n < 65536 then .ok n else outsideAddr s (.ofNat n)
  | .negSucc n => outsideAddr s (.negSucc n)

/-- `MemRead(a, 1)` (R63). -/
def memRead1 (s : State) (a : Int) : Except Fault Byte := do
  let x ← effAddr s a
  pure (s.byteAt x)

/-- The two cells of a 16-bit access at `a`, both checked before either is used: the first failing address is the one
recorded (R63, R65, R456). -/
def slots (s : State) (a : Int) : Except Fault (Nat × Nat) := do
  let x ← effAddr s a
  let y ← effAddr s (a + 1)
  pure (x, y)

/-- `MemRead(a, 2) = mem[a+1] ++ mem[a]` (R63). -/
def memRead2 (s : State) (a : Int) : Except Fault Word := do
  let (x, y) ← slots s a
  pure (cat (s.byteAt y) (s.byteAt x))

/-- `MemWrite(a, 1, v)` (R64). -/
def memWrite1 (s : State) (a : Int) (v : Byte) : Except Fault State := do
  let x ← effAddr s a
  pure (s.storeByte x v)

/-- `MemWrite(a, 2, v)`: the low byte at `a`, the high byte at `a+1` (R64). -/
def memWrite2 (s : State) (a : Int) (v : Word) : Except Fault State := do
  let (x, y) ← slots s a
  pure ((s.storeByte x (lo v)).storeByte y (hi v))

/-- `MemRead(a, 1)` at a register value or address operand, which is always within range (R202, R207). -/
def State.load (s : State) (w : Word) : Byte := s.byteAt w.toNat

/-- `MemWrite(a, 1, v)` at a register value or address operand, which is always within range (R203, R208). -/
def State.store (s : State) (w : Word) (v : Byte) : State := s.storeByte w.toNat v

/-! ### Ports -/

/-- `PortRead(p)` (R66). -/
def State.portRead (s : State) (p : Byte) : Byte := cellRead s.cfg.resetPort s.ports p.toNat

/-- `PortWrite(p, v)` (R66). -/
def State.portWrite (s : State) (p : Byte) (v : Byte) : State :=
  { s with ports := cellWrite s.cfg.resetPort s.ports p.toNat v }

/-! ### The Call Stack -/

/-- `CallPush(x)` (R37): the depth check comes before any other effect. -/
def callPush (s : State) (x : Word) : Except Fault State :=
  if s.callstack.length ≥ s.cfg.callDepthMax then raise (.stackOverflow (.pc s.pc))
  else .ok { s with callstack := x :: s.callstack }

/-- `CallPop()` (R38): the top return point and the state without it. -/
def callPop (s : State) : Except Fault (Word × State) :=
  match s.callstack with
  | [] => raise (.stackUnderflow (.pc s.pc))
  | x :: rest => .ok (x, { s with callstack := rest })

/-! ### Reset and the start and end of a run -/

/-- The reset operation (R480): the constant initial state of the parameters (R481). -/
def resetOp (s : State) : State := State.initial s.cfg

/-- Start of a run in linear mode at `entry` (R172). -/
def startLinear (s : State) (entry : Word) : State :=
  { s with pc := entry, callstack := [], steps := 0, halted := false, touched := [], block := none }

/-- Start of a run in block mode (47_block_mode.md R402). DESIGN CHOICE (log entry 35): an empty mapping has no `first` and so
no cursor; its run, which R402 ends with `AmbiguousHalt`, starts at the caller's `first` with index 0, so the fault records
that label, and the step that raises it is counted. -/
def startBlock (s : State) (blocks : List (Text × List Line)) (first : Text) : State :=
  { s with callstack := [], steps := 0, halted := false, touched := [],
           block := some { blocks := blocks, first := first, cur := first, idx := 0, callstack := [] } }

/-- The Call Stack of a run "is discarded at halt" (R36) and after a fault (R461). -/
def endRun (s : State) : State :=
  { s with callstack := [], block := s.block.map (fun b => { b with callstack := [] }) }

end Sys2Proof.Machine
end

