-- ==== Sys2Proof/Machine/Flags.lean ====
section
/-! DEFINITION. Every flag computation of the spec: `ADD8` and `SUB8` (42_arithmetic.md R231, R232), the logical flags
(43_logical.md R270), INR and DCR (R245, R247), `DAD`, `DAA` (R251, R252), the rotates (R283 to R286), the flag byte of
`PSW` (10_state.md R30) and the branch conditions (44_branch.md R311). -/

namespace Sys2Proof.Machine

/-- `ZSP(v)` (R8) with the two carries given: Zero, Sign and Parity of an 8-bit result (R27). -/
def flagsOf (res : Byte) (ac cy : Bool) : Flags :=
  { s := res.msb, z := res == 0, ac := ac, p := parity res, cy := cy }

/-- `ADD8(a, b, cin)` (R231): the result and the five flags. -/
def add8 (a b : Byte) (cin : Bool) : Byte × Flags :=
  let sum := a.toNat + b.toNat + cin.toNat
  let res := BitVec.ofNat 8 sum
  (res, flagsOf res (decide (a.toNat % 16 + b.toNat % 16 + cin.toNat > 15)) (decide (sum > 255)))

/-- AuxiliaryCarry after a subtraction whose low nibble borrowed iff `nb` (R232, `AC_SUB_POLARITY`). -/
def acAfterSub (pol : AcPolarity) (nb : Bool) : Bool :=
  match pol with
  | .borrow => nb
  | .carry => !nb

/-- `SUB8(a, b, bin)` (R232): the result and the five flags. -/
def sub8 (pol : AcPolarity) (a b : Byte) (bin : Bool) : Byte × Flags :=
  let diff : Int := (a.toNat : Int) - (b.toNat : Int) - (bin.toNat : Int)
  let res := BitVec.ofInt 8 diff
  (res, flagsOf res (acAfterSub pol (decide (a.toNat % 16 < b.toNat % 16 + bin.toNat))) (decide (diff < 0)))

/-- `INR` (R245): the result, and S, Z, AC, P from it; Carry is kept. -/
def inc8 (v : Byte) (f : Flags) : Byte × Flags :=
  let res := BitVec.ofNat 8 (v.toNat + 1)
  (res, flagsOf res (decide (v.toNat % 16 = 15)) f.cy)

/-- `DCR` (R247): the result, S, Z, P from it and the AC output of `SUB8(v, 1, 0)`; Carry is kept. -/
def dec8 (pol : AcPolarity) (v : Byte) (f : Flags) : Byte × Flags :=
  let (res, g) := sub8 pol v 1 false
  (res, { g with cy := f.cy })

/-- The flags of `ANA` and `ANI` (R270): CY = 0, AC = 1. -/
def andFlags (res : Byte) : Flags := flagsOf res true false

/-- The flags of `XRA`, `XRI`, `ORA`, `ORI` (R270): CY = 0, AC = 0. -/
def xorOrFlags (res : Byte) : Flags := flagsOf res false false

/-- `DAD` (R251): the 16-bit sum and the carry out of bit 15. -/
def add16 (x y : Word) : Word × Bool :=
  let sum := x.toNat + y.toNat
  (BitVec.ofNat 16 sum, decide (sum > 65535))

/-- `DAA` (R252): the adjusted accumulator and the five flags. -/
def daa8 (a : Byte) (f : Flags) : Byte × Flags :=
  let a0 := a.toNat
  let c1 := decide (a0 % 16 > 9) || f.ac
  let t := a0 + (if c1 then 6 else 0)
  let c2 := decide (t / 16 > 9) || f.cy
  let u := t + (if c2 then 96 else 0)
  let res := BitVec.ofNat 8 u
  (res, flagsOf res (c1 && decide (a0 % 16 + 6 > 15)) c2)

/-- `RLC` (R283): A rotated left, and the bit rotated out. -/
def rotLeft (a : Byte) : Byte × Bool :=
  (BitVec.ofNat 8 (a.toNat * 2 % 256 + (a.getLsbD 7).toNat), a.getLsbD 7)

/-- `RRC` (R284): A rotated right, and the bit rotated out. -/
def rotRight (a : Byte) : Byte × Bool :=
  (BitVec.ofNat 8 (a.toNat / 2 + (a.getLsbD 0).toNat * 128), a.getLsbD 0)

/-- `RAL` (R285): A rotated left through the old Carry, and the bit rotated out. -/
def rotLeftCy (a : Byte) (cy : Bool) : Byte × Bool :=
  (BitVec.ofNat 8 (a.toNat * 2 % 256 + cy.toNat), a.getLsbD 7)

/-- `RAR` (R286): A rotated right through the old Carry, and the bit rotated out. -/
def rotRightCy (a : Byte) (cy : Bool) : Byte × Bool :=
  (BitVec.ofNat 8 (a.toNat / 2 + cy.toNat * 128), a.getLsbD 0)

/-- The flag byte that `PUSH PSW` writes (R30, R362): S Z u5 AC u3 P u1 CY from bit 7 down. -/
def flagByte (unused : BitVec 3) (f : Flags) : Byte :=
  bit f.s ++ bit f.z ++ bit (unused.getLsbD 2) ++ bit f.ac ++ bit (unused.getLsbD 1) ++ bit f.p
    ++ bit (unused.getLsbD 0) ++ bit f.cy

/-- The flags that `POP PSW` takes from a byte; bits 5, 3, 1 are ignored (R30, R364). -/
def flagsOfByte (v : Byte) : Flags :=
  { s := v.getLsbD 7, z := v.getLsbD 6, ac := v.getLsbD 4, p := v.getLsbD 2, cy := v.getLsbD 0 }

/-- The eight branch conditions (30_encoding.md R95). -/
inductive Cond where
  | nz | z | nc | c | po | pe | p | m
  deriving DecidableEq, Repr

/-- `cond(ccc)` against the current flags (R311). -/
def cond (f : Flags) : Cond → Bool
  | .nz => !f.z
  | .z => f.z
  | .nc => !f.cy
  | .c => f.cy
  | .po => !f.p
  | .pe => f.p
  | .p => !f.s
  | .m => f.s

end Sys2Proof.Machine
end

