-- ==== Sys2Proof/Machine/Operands.lean ====
section
/-! DEFINITION. The operand forms of 30_encoding.md R93 to R97: register or memory, and the three pair sets. Immediate,
address and port operands are the bytes of the instruction themselves (R97). -/

namespace Sys2Proof.Machine

/-- Read a register-or-memory operand; `M` is the byte at HL (10_state.md R23), whose address is always in range. -/
def State.readRM (s : State) : RegM → Byte
  | .reg x => s.reg x
  | .m => s.load (s.pair .h)

/-- Write a register-or-memory operand (R23). -/
def State.writeRM (s : State) (o : RegM) (v : Byte) : State :=
  match o with
  | .reg x => s.setReg x v
  | .m => s.store (s.pair .h) v

/-- Read an operand of the set {B, D, H, SP} (R94). -/
def State.readPairSp (s : State) : PairSp → Word
  | .pair p => s.pair p
  | .sp => s.sp

/-- Write an operand of the set {B, D, H, SP} (R94). -/
def State.writePairSp (s : State) (o : PairSp) (v : Word) : State :=
  match o with
  | .pair p => s.setPair p v
  | .sp => s.setSp v

/-- The pair that `LDAX` and `STAX` address memory with (R94, R211). -/
def State.readPairBD (s : State) : PairBD → Word
  | .b => s.pair .b
  | .d => s.pair .d

end Sys2Proof.Machine
end

