-- ==== Sys2Proof/Machine/Arithmetic.lean ====
section
/-! DEFINITION. 42_arithmetic.md: the meanings of the Arithmetic instructions. The 8-bit forms share `addTo` and
`subFrom`, which are R230 over `ADD8` and `SUB8`; the engine advances `pc` afterwards (40_engine.md R176). -/

namespace Sys2Proof.Machine

/-- `(res, flags) <- ADD8(r[A], v, cin); r[A] <- res` (R230, R231). -/
def addTo (s : State) (v : Byte) (cin : Bool) : State :=
  (s.setReg .a (add8 (s.reg .a) v cin).1).setFlags (add8 (s.reg .a) v cin).2

/-- `(res, flags) <- SUB8(r[A], v, bin)`, the flags alone written (R230, R232): a compare, and half of a subtract. -/
def subFlags (s : State) (v : Byte) (bin : Bool) : State :=
  s.setFlags (sub8 s.cfg.acSubPolarity (s.reg .a) v bin).2

/-- `(res, flags) <- SUB8(r[A], v, bin); r[A] <- res` (R230, R232). -/
def subFrom (s : State) (v : Byte) (bin : Bool) : State :=
  (subFlags s v bin).setReg .a (sub8 s.cfg.acSubPolarity (s.reg .a) v bin).1

/-- `ADD` (R233, R234). -/
def execAdd (src : RegM) (s : State) : Host.Outcome State Fault Refusal := .next (addTo s (s.readRM src) false)

/-- `ADI` (R235). -/
def execAdi (d8 : Byte) (s : State) : Host.Outcome State Fault Refusal := .next (addTo s d8 false)

/-- `ADC` (R236, R237): the Carry before the instruction is added in. -/
def execAdc (src : RegM) (s : State) : Host.Outcome State Fault Refusal := .next (addTo s (s.readRM src) s.f.cy)

/-- `ACI` (R238). -/
def execAci (d8 : Byte) (s : State) : Host.Outcome State Fault Refusal := .next (addTo s d8 s.f.cy)

/-- `SUB` (R239, R240). -/
def execSub (src : RegM) (s : State) : Host.Outcome State Fault Refusal := .next (subFrom s (s.readRM src) false)

/-- `SUI` (R241). -/
def execSui (d8 : Byte) (s : State) : Host.Outcome State Fault Refusal := .next (subFrom s d8 false)

/-- `SBB` (R242, R243): the Carry before the instruction is the borrow in. -/
def execSbb (src : RegM) (s : State) : Host.Outcome State Fault Refusal := .next (subFrom s (s.readRM src) s.f.cy)

/-- `SBI` (R244). -/
def execSbi (d8 : Byte) (s : State) : Host.Outcome State Fault Refusal := .next (subFrom s d8 s.f.cy)

/-- `INR` (R245, R246): S, Z, AC, P written, Carry kept. -/
def execInr (dst : RegM) (s : State) : Host.Outcome State Fault Refusal :=
  .next ((s.writeRM dst (inc8 (s.readRM dst) s.f).1).setFlags (inc8 (s.readRM dst) s.f).2)

/-- `DCR` (R247, R248): S, Z, AC, P written, Carry kept. -/
def execDcr (dst : RegM) (s : State) : Host.Outcome State Fault Refusal :=
  .next ((s.writeRM dst (dec8 s.cfg.acSubPolarity (s.readRM dst) s.f).1).setFlags
    (dec8 s.cfg.acSubPolarity (s.readRM dst) s.f).2)

/-- `INX` (R249): modulo 65536, no flag. -/
def execInx (rp : PairSp) (s : State) : Host.Outcome State Fault Refusal :=
  .next (s.writePairSp rp (s.readPairSp rp + 1))

/-- `DCX` (R250): modulo 65536, no flag. -/
def execDcx (rp : PairSp) (s : State) : Host.Outcome State Fault Refusal :=
  .next (s.writePairSp rp (s.readPairSp rp - 1))

/-- `DAD` (R251): HL plus a pair or `sp`; only Carry is written. -/
def execDad (rp : PairSp) (s : State) : Host.Outcome State Fault Refusal :=
  .next ((s.setPair .h (add16 (s.pair .h) (s.readPairSp rp)).1).setCy (add16 (s.pair .h) (s.readPairSp rp)).2)

/-- `DAA` (R252). -/
def execDaa (s : State) : Host.Outcome State Fault Refusal :=
  .next ((s.setReg .a (daa8 (s.reg .a) s.f).1).setFlags (daa8 (s.reg .a) s.f).2)

end Sys2Proof.Machine
end

