-- ==== Sys2Proof/Machine/Branch.lean ====
section
/-! DEFINITION. 44_branch.md: the meanings of the Branch instructions in linear mode. Each writes `pc` itself, taken or
not (40_engine.md R176); return points live on the Call Stack alone, `sp` and memory are untouched (R310). -/

namespace Sys2Proof.Machine

/-- A jump (R312). -/
def jumpTo (a16 : Word) (s : State) : Except Fault State := .ok (s.setPc a16)

/-- A call of `len` bytes (R321, R350): push the return point, then jump. -/
def callTo (len : Word) (a16 : Word) (s : State) : Except Fault State := do
  let t ← callPush s (s.pc + len)
  pure (t.setPc a16)

/-- A return (R330): `pc <- CallPop()`. -/
def returnFrom (s : State) : Except Fault State := do
  let (x, t) ← callPop s
  pure (t.setPc x)

/-- A conditional form of `len` bytes (R311): the flags are read before anything else, and a form not taken does one
thing, `pc <- pc + len`. -/
def whenTaken (ccc : Cond) (len : Word) (taken : State → Except Fault State) (s : State) :
    Host.Outcome State Fault Refusal :=
  if cond s.f ccc then ofExcept (taken s) else .next (s.setPc (s.pc + len))

/-- `JMP` (R312). -/
def execJmp (a16 : Word) (s : State) : Host.Outcome State Fault Refusal := ofExcept (jumpTo a16 s)

/-- `JNZ` (R313): jump if not Zero. -/
def execJnz (a16 : Word) (s : State) : Host.Outcome State Fault Refusal := whenTaken .nz 3 (jumpTo a16) s

/-- `JZ` (R314): jump if Zero. -/
def execJz (a16 : Word) (s : State) : Host.Outcome State Fault Refusal := whenTaken .z 3 (jumpTo a16) s

/-- `JNC` (R315): jump if no Carry. -/
def execJnc (a16 : Word) (s : State) : Host.Outcome State Fault Refusal := whenTaken .nc 3 (jumpTo a16) s

/-- `JC` (R316): jump if Carry. -/
def execJc (a16 : Word) (s : State) : Host.Outcome State Fault Refusal := whenTaken .c 3 (jumpTo a16) s

/-- `JPO` (R317): jump if odd Parity. -/
def execJpo (a16 : Word) (s : State) : Host.Outcome State Fault Refusal := whenTaken .po 3 (jumpTo a16) s

/-- `JPE` (R318): jump if even Parity. -/
def execJpe (a16 : Word) (s : State) : Host.Outcome State Fault Refusal := whenTaken .pe 3 (jumpTo a16) s

/-- `JP` (R319): jump if plus. -/
def execJp (a16 : Word) (s : State) : Host.Outcome State Fault Refusal := whenTaken .p 3 (jumpTo a16) s

/-- `JM` (R320): jump if minus. -/
def execJm (a16 : Word) (s : State) : Host.Outcome State Fault Refusal := whenTaken .m 3 (jumpTo a16) s

/-- `CALL` (R321). -/
def execCall (a16 : Word) (s : State) : Host.Outcome State Fault Refusal := ofExcept (callTo 3 a16 s)

/-- `CNZ` (R322): call if not Zero. -/
def execCnz (a16 : Word) (s : State) : Host.Outcome State Fault Refusal := whenTaken .nz 3 (callTo 3 a16) s

/-- `CZ` (R323): call if Zero. -/
def execCz (a16 : Word) (s : State) : Host.Outcome State Fault Refusal := whenTaken .z 3 (callTo 3 a16) s

/-- `CNC` (R324): call if no Carry. -/
def execCnc (a16 : Word) (s : State) : Host.Outcome State Fault Refusal := whenTaken .nc 3 (callTo 3 a16) s

/-- `CC` (R325): call if Carry. -/
def execCc (a16 : Word) (s : State) : Host.Outcome State Fault Refusal := whenTaken .c 3 (callTo 3 a16) s

/-- `CPO` (R326): call if odd Parity. -/
def execCpo (a16 : Word) (s : State) : Host.Outcome State Fault Refusal := whenTaken .po 3 (callTo 3 a16) s

/-- `CPE` (R327): call if even Parity. -/
def execCpe (a16 : Word) (s : State) : Host.Outcome State Fault Refusal := whenTaken .pe 3 (callTo 3 a16) s

/-- `CP` (R328): call if plus. -/
def execCp (a16 : Word) (s : State) : Host.Outcome State Fault Refusal := whenTaken .p 3 (callTo 3 a16) s

/-- `CM` (R329): call if minus. -/
def execCm (a16 : Word) (s : State) : Host.Outcome State Fault Refusal := whenTaken .m 3 (callTo 3 a16) s

/-- `RET` (R330). -/
def execRet (s : State) : Host.Outcome State Fault Refusal := ofExcept (returnFrom s)

/-- `RNZ` (R331): return if not Zero. -/
def execRnz (s : State) : Host.Outcome State Fault Refusal := whenTaken .nz 1 returnFrom s

/-- `RZ` (R332): return if Zero. -/
def execRz (s : State) : Host.Outcome State Fault Refusal := whenTaken .z 1 returnFrom s

/-- `RNC` (R333): return if no Carry. -/
def execRnc (s : State) : Host.Outcome State Fault Refusal := whenTaken .nc 1 returnFrom s

/-- `RC` (R334): return if Carry. -/
def execRc (s : State) : Host.Outcome State Fault Refusal := whenTaken .c 1 returnFrom s

/-- `RPO` (R335): return if odd Parity. -/
def execRpo (s : State) : Host.Outcome State Fault Refusal := whenTaken .po 1 returnFrom s

/-- `RPE` (R336): return if even Parity. -/
def execRpe (s : State) : Host.Outcome State Fault Refusal := whenTaken .pe 1 returnFrom s

/-- `RP` (R337): return if plus. -/
def execRp (s : State) : Host.Outcome State Fault Refusal := whenTaken .p 1 returnFrom s

/-- `RM` (R338): return if minus. -/
def execRm (s : State) : Host.Outcome State Fault Refusal := whenTaken .m 1 returnFrom s

/-- `PCHL` (R340): a jump to HL. -/
def execPchl (s : State) : Host.Outcome State Fault Refusal := ofExcept (jumpTo (s.pair .h) s)

/-- The target of `RST n` (R350): `8 * n`. -/
def rstTarget (n : BitVec 3) : Word := 8 * n.setWidth 16

/-- `RST n` (R350): a one-byte call to `8 * n`. -/
def execRst (n : BitVec 3) (s : State) : Host.Outcome State Fault Refusal := ofExcept (callTo 1 (rstTarget n) s)

end Sys2Proof.Machine
end

