-- ==== Sys2Proof/Machine/Control.lean ====
section
/-! DEFINITION. 46_machine_control.md: the meanings of the Peripheral instructions, of the reset instruction and of the
undefined bytes. The engine advances `pc` afterwards, but not after the reset instruction (40_engine.md R176, R389). -/

namespace Sys2Proof.Machine

/-- `EI`, `DI`, `RIM`, `SIM` under `INTERRUPT_OPS` (30_encoding.md R100): under `refuse` the byte is an unknown
instruction, under `nop` it has the effect given. -/
def interruptOp (op : Byte) (effect : State → State) (s : State) : Host.Outcome State Fault Refusal :=
  match s.cfg.interruptOps with
  | .refuse => ofExcept (raise (.unknownInstruction (.byte s.pc op)))
  | .nop => .next (effect s)

/-- `IN` (R381): `r[A] <- PortRead(p8)`. -/
def execIn (p8 : Byte) (s : State) : Host.Outcome State Fault Refusal := .next (s.setReg .a (s.portRead p8))

/-- `OUT` (R382): `PortWrite(p8, r[A])`. -/
def execOut (p8 : Byte) (s : State) : Host.Outcome State Fault Refusal := .next (s.portWrite p8 (s.reg .a))

/-- `HLT` (R383): `halted <- true`. The Call Stack is discarded by the end of the run (`endRun`), log entry 22. -/
def execHlt (s : State) : Host.Outcome State Fault Refusal := .next { s with halted := true }

/-- `NOP` (R384). -/
def execNop (s : State) : Host.Outcome State Fault Refusal := .next s

/-- `EI` (R385). -/
def execEi (s : State) : Host.Outcome State Fault Refusal := interruptOp 0xFB (fun t => t) s

/-- `DI` (R386). -/
def execDi (s : State) : Host.Outcome State Fault Refusal := interruptOp 0xF3 (fun t => t) s

/-- `RIM` (R387): under `nop`, `r[A] <- 00H`. -/
def execRim (s : State) : Host.Outcome State Fault Refusal := interruptOp 0x20 (fun t => t.setReg .a 0x00) s

/-- `SIM` (R388). -/
def execSim (s : State) : Host.Outcome State Fault Refusal := interruptOp 0x30 (fun t => t) s

/-- The reset instruction (R389, R483): the reset operation, after which the run has ended; log entry 6. -/
def resetInstruction (s : State) : State := { resetOp s with halted := true }

/-- A byte without a row (R390): `UnknownInstruction`, unless `RESET_OPCODE` names it (R389). -/
def execUndefined (op : Byte) (s : State) : Host.Outcome State Fault Refusal :=
  if s.cfg.resetOpcode = some op then .next (resetInstruction s)
  else ofExcept (raise (.unknownInstruction (.byte s.pc op)))

end Sys2Proof.Machine
end

