-- ==== Sys2Proof/Machine/DataTransfer.lean ====
section
/-! DEFINITION. 41_data_transfer.md: the meanings of the Data instructions. No flag is read or written (R200). The
engine advances `pc` afterwards (40_engine.md R176). -/

namespace Sys2Proof.Machine

/-- `MOV` (R201, R202, R203): register or `M` to register or `M`. The source is read, and HL addresses `M`, before any
write. `MOV M,M` has no encoding (R203). -/
def execMov (dst src : RegM) (s : State) : Host.Outcome State Fault Refusal :=
  .next (s.writeRM dst (s.readRM src))

/-- `MVI` (R204, R205): the immediate to a register or to the byte at HL. -/
def execMvi (dst : RegM) (d8 : Byte) (s : State) : Host.Outcome State Fault Refusal :=
  .next (s.writeRM dst d8)

/-- `LXI` (R206): the 16-bit immediate to a pair, both halves, or to `sp`. -/
def execLxi (rp : PairSp) (d16 : Word) (s : State) : Host.Outcome State Fault Refusal :=
  .next (s.writePairSp rp d16)

/-- `LDA` (R207). -/
def execLda (a16 : Word) (s : State) : Host.Outcome State Fault Refusal :=
  .next (s.setReg .a (s.load a16))

/-- `STA` (R208). -/
def execSta (a16 : Word) (s : State) : Host.Outcome State Fault Refusal :=
  .next (s.store a16 (s.reg .a))

/-- `LHLD` (R209): `rp[HL] <- MemRead(a16, 2)`, with both addresses checked first. -/
def execLhld (a16 : Word) (s : State) : Host.Outcome State Fault Refusal :=
  ofExcept do
    let v ← memRead2 s a16.toNat
    pure (s.setPair .h v)

/-- `SHLD` (R210): `MemWrite(a16, 2, rp[HL])`, with both addresses checked first. -/
def execShld (a16 : Word) (s : State) : Host.Outcome State Fault Refusal :=
  ofExcept (memWrite2 s a16.toNat (s.pair .h))

/-- `LDAX` (R211). -/
def execLdax (rp : PairBD) (s : State) : Host.Outcome State Fault Refusal :=
  .next (s.setReg .a (s.load (s.readPairBD rp)))

/-- `STAX` (R212). -/
def execStax (rp : PairBD) (s : State) : Host.Outcome State Fault Refusal :=
  .next (s.store (s.readPairBD rp) (s.reg .a))

/-- `XCHG` (R213): HL and DE exchange. -/
def execXchg (s : State) : Host.Outcome State Fault Refusal :=
  .next ((s.setPair .h (s.pair .d)).setPair .d (s.pair .h))

end Sys2Proof.Machine
end

