-- ==== Sys2Proof/Machine/Logical.lean ====
section
/-! DEFINITION. 43_logical.md: the meanings of the Logical instructions. The engine advances `pc` afterwards
(40_engine.md R176). -/

namespace Sys2Proof.Machine

/-- The AND group (R270): A and the flags. -/
def andTo (s : State) (v : Byte) : State :=
  (s.setReg .a (s.reg .a &&& v)).setFlags (andFlags (s.reg .a &&& v))

/-- The XOR group (R270). -/
def xorTo (s : State) (v : Byte) : State :=
  (s.setReg .a (s.reg .a ^^^ v)).setFlags (xorOrFlags (s.reg .a ^^^ v))

/-- The OR group (R270). -/
def orTo (s : State) (v : Byte) : State :=
  (s.setReg .a (s.reg .a ||| v)).setFlags (xorOrFlags (s.reg .a ||| v))

/-- A rotate's result: A and Carry alone (R270). -/
def rotateTo (s : State) (x : Byte × Bool) : State := (s.setReg .a x.1).setCy x.2

/-- `ANA` (R271, R272). -/
def execAna (src : RegM) (s : State) : Host.Outcome State Fault Refusal := .next (andTo s (s.readRM src))

/-- `ANI` (R273). -/
def execAni (d8 : Byte) (s : State) : Host.Outcome State Fault Refusal := .next (andTo s d8)

/-- `XRA` (R274, R275). -/
def execXra (src : RegM) (s : State) : Host.Outcome State Fault Refusal := .next (xorTo s (s.readRM src))

/-- `XRI` (R276). -/
def execXri (d8 : Byte) (s : State) : Host.Outcome State Fault Refusal := .next (xorTo s d8)

/-- `ORA` (R277, R278). -/
def execOra (src : RegM) (s : State) : Host.Outcome State Fault Refusal := .next (orTo s (s.readRM src))

/-- `ORI` (R279). -/
def execOri (d8 : Byte) (s : State) : Host.Outcome State Fault Refusal := .next (orTo s d8)

/-- `CMP` (R280, R281): the flags of the subtraction, A kept. -/
def execCmp (src : RegM) (s : State) : Host.Outcome State Fault Refusal := .next (subFlags s (s.readRM src) false)

/-- `CPI` (R282). -/
def execCpi (d8 : Byte) (s : State) : Host.Outcome State Fault Refusal := .next (subFlags s d8 false)

/-- `RLC` (R283). -/
def execRlc (s : State) : Host.Outcome State Fault Refusal := .next (rotateTo s (rotLeft (s.reg .a)))

/-- `RRC` (R284). -/
def execRrc (s : State) : Host.Outcome State Fault Refusal := .next (rotateTo s (rotRight (s.reg .a)))

/-- `RAL` (R285). -/
def execRal (s : State) : Host.Outcome State Fault Refusal := .next (rotateTo s (rotLeftCy (s.reg .a) s.f.cy))

/-- `RAR` (R286). -/
def execRar (s : State) : Host.Outcome State Fault Refusal := .next (rotateTo s (rotRightCy (s.reg .a) s.f.cy))

/-- `CMA` (R287): every bit of A inverted, no flag. -/
def execCma (s : State) : Host.Outcome State Fault Refusal := .next (s.setReg .a (255 - s.reg .a))

/-- `CMC` (R288). -/
def execCmc (s : State) : Host.Outcome State Fault Refusal := .next (s.setCy (!s.f.cy))

/-- `STC` (R289). -/
def execStc (s : State) : Host.Outcome State Fault Refusal := .next (s.setCy true)

end Sys2Proof.Machine
end

