-- ==== Sys2Proof/Machine/Stack.lean ====
section
/-! DEFINITION. 45_stack.md: the meanings of the Stack instructions. The stack is in memory, grows down, and its top
word is little-endian at `sp` (R360); its addresses are computed without wrap and checked before any write. The engine
advances `pc` afterwards (40_engine.md R176). -/

namespace Sys2Proof.Machine

/-- The 16-bit value that `PUSH` stores (R361, R362): a pair, or `PSW = r[A] ++ flagbyte` (10_state.md R30). -/
def State.readPairPsw (s : State) : PairPsw → Word
  | .pair p => s.pair p
  | .psw => cat (s.reg .a) (flagByte s.cfg.pswUnused s.f)

/-- What `POP` does with the popped word (R363, R364): both halves of a pair, or A and the five flags. -/
def State.writePairPsw (s : State) (o : PairPsw) (v : Word) : State :=
  match o with
  | .pair p => s.setPair p v
  | .psw => (s.setReg .a (hi v)).setFlags (flagsOfByte (lo v))

/-- The address a push stores its word at, on unbounded integers (R361, R62). -/
def pushAddr (s : State) : Int := (s.sp.toNat : Int) - 2

/-- `PUSH` (R361, R362): `MemWrite(sp - 2, 2, v); sp <- sp - 2`. -/
def execPush (rp : PairPsw) (s : State) : Host.Outcome State Fault Refusal :=
  ofExcept do
    let t ← memWrite2 s (pushAddr s) (s.readPairPsw rp)
    pure (t.setSp (s.sp - 2))

/-- `POP` (R363, R364): `MemRead(sp, 2)`, then `sp <- (sp + 2) mod 65536`. -/
def execPop (rp : PairPsw) (s : State) : Host.Outcome State Fault Refusal :=
  ofExcept do
    let v ← memRead2 s s.sp.toNat
    pure ((s.writePairPsw rp v).setSp (s.sp + 2))

/-- `XTHL` (R365): HL exchanges with the word at `sp`; `sp` stays. -/
def execXthl (s : State) : Host.Outcome State Fault Refusal :=
  ofExcept do
    let v ← memRead2 s s.sp.toNat
    let t ← memWrite2 s s.sp.toNat (s.pair .h)
    pure (t.setPair .h v)

/-- `SPHL` (R366): `sp <- rp[HL]`. -/
def execSphl (s : State) : Host.Outcome State Fault Refusal := .next (s.setSp (s.pair .h))

end Sys2Proof.Machine
end

