-- ==== Sys2Proof/Machine/Engine.lean ====
section
/-! DEFINITION. 40_engine.md: one step of the Execution Engine in linear mode (R173 to R180). -/

namespace Sys2Proof.Machine

/-- The step counter's increment at the start of a step (R39, R173). -/
def countStep (s : State) : State := { s with steps := s.steps + 1 }

/-- The step budget (R173), checked after the increment. -/
def checkBudget (at_ : Place) (s : State) : Except Fault Unit :=
  if s.steps > s.cfg.stepLimit then raise (.stepLimitExceeded at_) else .ok ()

/-- Whether an instruction is present at an address (R41, R174). -/
def present (s : State) (w : Word) : Bool :=
  match s.cfg.fetchPresence with
  | .listing => addrMem s.istart w.toNat
  | .all => true

/-- The presence check of the fetch (R174). -/
def checkPresence (s : State) : Except Fault Unit :=
  if present s s.pc then .ok () else raise (.missingReturn s.pc)

/-- Fetch and decode (R175): the opcode byte, then as many operand bytes as its length asks for, each a `MemRead` at
`pc + 1`, `pc + 2` that does not wrap. A byte without a row has length 1 and raises in its own meaning (R390). -/
def fetch (s : State) : Except Fault Instr := do
  let op := s.load s.pc
  match opLength op with
  | 1 => pure (decodeInstr op 0 0)
  | 2 =>
    let b1 ← memRead1 s (s.pc.toNat + 1)
    pure (decodeInstr op b1 0)
  | _ =>
    let b1 ← memRead1 s (s.pc.toNat + 1)
    let b2 ← memRead1 s (s.pc.toNat + 2)
    pure (decodeInstr op b1 b2)

/-- Whether an instruction writes `pc` itself (R176): every instruction of 44_branch.md, and the reset instruction
(R389), which is what `undefined` is whenever it does not raise. -/
def writesPc : Instr → Bool
  | .jmp _ | .jnz _ | .jz _ | .jnc _ | .jc _ | .jpo _ | .jpe _ | .jp _ | .jm _ => true
  | .call _ | .cnz _ | .cz _ | .cnc _ | .cc _ | .cpo _ | .cpe _ | .cp _ | .cm _ => true
  | .ret | .rnz | .rz | .rnc | .rc | .rpo | .rpe | .rp | .rm | .pchl | .rst _ => true
  | .undefined _ => true
  | .mov _ _ | .mvi _ _ | .lxi _ _ | .lda _ | .sta _ | .lhld _ | .shld _ | .ldax _ | .stax _ | .xchg => false
  | .add _ | .adi _ | .adc _ | .aci _ | .sub _ | .sui _ | .sbb _ | .sbi _ | .inr _ | .dcr _ => false
  | .inx _ | .dcx _ | .dad _ | .daa => false
  | .ana _ | .ani _ | .xra _ | .xri _ | .ora _ | .ori _ | .cmp _ | .cpi _ => false
  | .rlc | .rrc | .ral | .rar | .cma | .cmc | .stc => false
  | .push _ | .pop _ | .xthl | .sphl | .in_ _ | .out _ | .hlt | .nop | .ei | .di | .rim | .sim => false

/-- The engine's default advance (R176): `pc <- (pc + len) mod 65536` unless the instruction wrote `pc` itself. -/
def advance (i : Instr) (s : State) : State :=
  if writesPc i then s else s.setPc (s.pc + BitVec.ofNat 16 i.length)

/-- The advance after an outcome: a fault or a refusal is left as it is (R179). -/
def advanceOutcome (i : Instr) (x : Host.Outcome State Fault Refusal) : Host.Outcome State Fault Refusal :=
  match x with
  | .next t => .next (advance i t)
  | .fault k => .fault k
  | .refused w => .refused w

/-- The checks of R179 (1) to (4), in that order: budget, presence, opcode, operand bytes. -/
def fetchChecked (s : State) : Except Fault Instr := do
  checkBudget (.pc s.pc) s
  checkPresence s
  fetch s

/-- One step in linear mode (R180). -/
def linearStep (s : State) : Host.Outcome State Fault Refusal :=
  match fetchChecked (countStep s) with
  | .error k => .fault k
  | .ok i => advanceOutcome i (exec i (countStep s))

end Sys2Proof.Machine
end

