-- ==== Sys2Proof/Machine/Table.lean ====
section
/-! DEFINITION. The Opcode Table as the assembler and the metadata query read it (30_encoding.md R98, R102 to R104): the
mnemonics with their operand patterns, and the columns of a row. No step reads a cycle count (R102, R491). -/

namespace Sys2Proof.Machine

/-- The operand pattern of a mnemonic (R104), with the instruction that its validated operands make. -/
inductive Form where
  /-- no operand. -/
  | none0 (i : Instr)
  /-- `MOV`: two registers-or-`M`. -/
  | mov
  /-- `MVI`: a register or `M`, and an 8-bit immediate. -/
  | mvi
  /-- `LXI`: a pair of {B, D, H, SP}, and a 16-bit literal or label. -/
  | lxi
  /-- one register or `M`. -/
  | regM (mk : RegM → Instr)
  /-- one pair of {B, D, H, SP}. -/
  | pairSp (mk : PairSp → Instr)
  /-- one pair of {B, D, H, PSW}. -/
  | pairPsw (mk : PairPsw → Instr)
  /-- one pair of {B, D}. -/
  | pairBD (mk : PairBD → Instr)
  /-- one 8-bit immediate. -/
  | imm (mk : Byte → Instr)
  /-- one 16-bit literal or label. -/
  | addr (mk : Word → Instr)
  /-- one port. -/
  | port (mk : Byte → Instr)
  /-- `RST`: the vector number. -/
  | vector
  /-- `RESET_MNEMONIC`: no operand (R389). -/
  | reset

/-- The length in bytes of every form of a mnemonic (R150: it does not depend on which register is named). -/
def Form.length : Form → Nat
  | .none0 i => i.length
  | .mov => 1
  | .mvi => 2
  | .lxi => 3
  | .regM _ => 1
  | .pairSp _ => 1
  | .pairPsw _ => 1
  | .pairBD _ => 1
  | .imm _ => 2
  | .addr _ => 3
  | .port _ => 2
  | .vector => 1
  | .reset => 1

/-- The Data mnemonics (R136). -/
def dataForms : List (Text × Form) :=
  [("MOV".toList, .mov),
   ("MVI".toList, .mvi),
   ("LXI".toList, .lxi),
   ("LDA".toList, .addr .lda),
   ("STA".toList, .addr .sta),
   ("LHLD".toList, .addr .lhld),
   ("SHLD".toList, .addr .shld),
   ("LDAX".toList, .pairBD .ldax),
   ("STAX".toList, .pairBD .stax),
   ("XCHG".toList, .none0 .xchg)]

/-- The Arithmetic mnemonics (R136). -/
def arithmeticForms : List (Text × Form) :=
  [("ADD".toList, .regM .add),
   ("ADI".toList, .imm .adi),
   ("ADC".toList, .regM .adc),
   ("ACI".toList, .imm .aci),
   ("SUB".toList, .regM .sub),
   ("SUI".toList, .imm .sui),
   ("SBB".toList, .regM .sbb),
   ("SBI".toList, .imm .sbi),
   ("INR".toList, .regM .inr),
   ("DCR".toList, .regM .dcr),
   ("INX".toList, .pairSp .inx),
   ("DCX".toList, .pairSp .dcx),
   ("DAD".toList, .pairSp .dad),
   ("DAA".toList, .none0 .daa)]

/-- The Logical mnemonics (R136). -/
def logicalForms : List (Text × Form) :=
  [("ANA".toList, .regM .ana),
   ("ANI".toList, .imm .ani),
   ("XRA".toList, .regM .xra),
   ("XRI".toList, .imm .xri),
   ("ORA".toList, .regM .ora),
   ("ORI".toList, .imm .ori),
   ("CMP".toList, .regM .cmp),
   ("CPI".toList, .imm .cpi),
   ("RLC".toList, .none0 .rlc),
   ("RRC".toList, .none0 .rrc),
   ("RAL".toList, .none0 .ral),
   ("RAR".toList, .none0 .rar),
   ("CMA".toList, .none0 .cma),
   ("CMC".toList, .none0 .cmc),
   ("STC".toList, .none0 .stc)]

/-- The Branch mnemonics (R136). -/
def branchForms : List (Text × Form) :=
  [("JMP".toList, .addr .jmp),
   ("JNZ".toList, .addr .jnz),
   ("JZ".toList, .addr .jz),
   ("JNC".toList, .addr .jnc),
   ("JC".toList, .addr .jc),
   ("JPO".toList, .addr .jpo),
   ("JPE".toList, .addr .jpe),
   ("JP".toList, .addr .jp),
   ("JM".toList, .addr .jm),
   ("CALL".toList, .addr .call),
   ("CNZ".toList, .addr .cnz),
   ("CZ".toList, .addr .cz),
   ("CNC".toList, .addr .cnc),
   ("CC".toList, .addr .cc),
   ("CPO".toList, .addr .cpo),
   ("CPE".toList, .addr .cpe),
   ("CP".toList, .addr .cp),
   ("CM".toList, .addr .cm),
   ("RET".toList, .none0 .ret),
   ("RNZ".toList, .none0 .rnz),
   ("RZ".toList, .none0 .rz),
   ("RNC".toList, .none0 .rnc),
   ("RC".toList, .none0 .rc),
   ("RPO".toList, .none0 .rpo),
   ("RPE".toList, .none0 .rpe),
   ("RP".toList, .none0 .rp),
   ("RM".toList, .none0 .rm),
   ("PCHL".toList, .none0 .pchl),
   ("RST".toList, .vector)]

/-- The Stack mnemonics (R136). -/
def stackForms : List (Text × Form) :=
  [("PUSH".toList, .pairPsw .push),
   ("POP".toList, .pairPsw .pop),
   ("XTHL".toList, .none0 .xthl),
   ("SPHL".toList, .none0 .sphl)]

/-- The Peripheral mnemonics that every setting has (R136). -/
def controlForms : List (Text × Form) :=
  [("IN".toList, .port .in_),
   ("OUT".toList, .port .out),
   ("HLT".toList, .none0 .hlt),
   ("NOP".toList, .none0 .nop)]

/-- The four mnemonics that `INTERRUPT_OPS = nop` admits (R100, R385 to R388). -/
def interruptForms : List (Text × Form) :=
  [("EI".toList, .none0 .ei),
   ("DI".toList, .none0 .di),
   ("RIM".toList, .none0 .rim),
   ("SIM".toList, .none0 .sim)]

/-- The mnemonics of the table that a setting of the parameters has (R122, R385). -/
def forms (cfg : Params) : List (Text × Form) :=
  dataForms ++ arithmeticForms ++ logicalForms ++ branchForms ++ stackForms ++ controlForms
    ++ (match cfg.interruptOps with | .refuse => [] | .nop => interruptForms)

/-- The table lookup of a mnemonic (R103, R122): a word of the table that the setting has, or else `RESET_MNEMONIC`
(R389). DESIGN CHOICE (log entry 27): a `RESET_MNEMONIC` that spells a word the setting has stays that word; one that spells
`EI`, `DI`, `RIM` or `SIM` under `INTERRUPT_OPS = refuse`, where R385 rejects the word and R389 accepts it, is the reset
instruction; one that spells `ORG` or `DB` is the directive in source text, which is read before this lookup, and the reset
instruction where there are no directives (block mode, single-instruction execution). -/
def lookupForm (cfg : Params) (word : Text) : Option Form :=
  match (forms cfg).find? (fun row => row.1 == word) with
  | some row => some row.2
  | none => if cfg.resetMnemonic = some word then some .reset else none

/-- The mnemonic of an instruction (R98). -/
def Instr.mnemonic : Instr → Text
  | .mov _ _ => "MOV".toList
  | .mvi _ _ => "MVI".toList
  | .lxi _ _ => "LXI".toList
  | .lda _ => "LDA".toList
  | .sta _ => "STA".toList
  | .lhld _ => "LHLD".toList
  | .shld _ => "SHLD".toList
  | .ldax _ => "LDAX".toList
  | .stax _ => "STAX".toList
  | .xchg => "XCHG".toList
  | .add _ => "ADD".toList
  | .adi _ => "ADI".toList
  | .adc _ => "ADC".toList
  | .aci _ => "ACI".toList
  | .sub _ => "SUB".toList
  | .sui _ => "SUI".toList
  | .sbb _ => "SBB".toList
  | .sbi _ => "SBI".toList
  | .inr _ => "INR".toList
  | .dcr _ => "DCR".toList
  | .inx _ => "INX".toList
  | .dcx _ => "DCX".toList
  | .dad _ => "DAD".toList
  | .daa => "DAA".toList
  | .ana _ => "ANA".toList
  | .ani _ => "ANI".toList
  | .xra _ => "XRA".toList
  | .xri _ => "XRI".toList
  | .ora _ => "ORA".toList
  | .ori _ => "ORI".toList
  | .cmp _ => "CMP".toList
  | .cpi _ => "CPI".toList
  | .rlc => "RLC".toList
  | .rrc => "RRC".toList
  | .ral => "RAL".toList
  | .rar => "RAR".toList
  | .cma => "CMA".toList
  | .cmc => "CMC".toList
  | .stc => "STC".toList
  | .jmp _ => "JMP".toList
  | .jnz _ => "JNZ".toList
  | .jz _ => "JZ".toList
  | .jnc _ => "JNC".toList
  | .jc _ => "JC".toList
  | .jpo _ => "JPO".toList
  | .jpe _ => "JPE".toList
  | .jp _ => "JP".toList
  | .jm _ => "JM".toList
  | .call _ => "CALL".toList
  | .cnz _ => "CNZ".toList
  | .cz _ => "CZ".toList
  | .cnc _ => "CNC".toList
  | .cc _ => "CC".toList
  | .cpo _ => "CPO".toList
  | .cpe _ => "CPE".toList
  | .cp _ => "CP".toList
  | .cm _ => "CM".toList
  | .ret => "RET".toList
  | .rnz => "RNZ".toList
  | .rz => "RZ".toList
  | .rnc => "RNC".toList
  | .rc => "RC".toList
  | .rpo => "RPO".toList
  | .rpe => "RPE".toList
  | .rp => "RP".toList
  | .rm => "RM".toList
  | .pchl => "PCHL".toList
  | .rst _ => "RST".toList
  | .push _ => "PUSH".toList
  | .pop _ => "POP".toList
  | .xthl => "XTHL".toList
  | .sphl => "SPHL".toList
  | .in_ _ => "IN".toList
  | .out _ => "OUT".toList
  | .hlt => "HLT".toList
  | .nop => "NOP".toList
  | .ei => "EI".toList
  | .di => "DI".toList
  | .rim => "RIM".toList
  | .sim => "SIM".toList
  | .undefined _ => "UNDEFINED".toList

/-- The six categories of the source (R98). `undefined` stands in the Peripheral file and has none of its own. -/
inductive Category where
  | data | arithmetic | logical | branch | stack | peripheral
  deriving DecidableEq, Repr

/-- The category column of R98. -/
def Instr.category : Instr → Category
  | .mov _ _ => .data
  | .mvi _ _ => .data
  | .lxi _ _ => .data
  | .lda _ => .data
  | .sta _ => .data
  | .lhld _ => .data
  | .shld _ => .data
  | .ldax _ => .data
  | .stax _ => .data
  | .xchg => .data
  | .add _ => .arithmetic
  | .adi _ => .arithmetic
  | .adc _ => .arithmetic
  | .aci _ => .arithmetic
  | .sub _ => .arithmetic
  | .sui _ => .arithmetic
  | .sbb _ => .arithmetic
  | .sbi _ => .arithmetic
  | .inr _ => .arithmetic
  | .dcr _ => .arithmetic
  | .inx _ => .arithmetic
  | .dcx _ => .arithmetic
  | .dad _ => .arithmetic
  | .daa => .arithmetic
  | .ana _ => .logical
  | .ani _ => .logical
  | .xra _ => .logical
  | .xri _ => .logical
  | .ora _ => .logical
  | .ori _ => .logical
  | .cmp _ => .logical
  | .cpi _ => .logical
  | .rlc => .logical
  | .rrc => .logical
  | .ral => .logical
  | .rar => .logical
  | .cma => .logical
  | .cmc => .logical
  | .stc => .logical
  | .jmp _ => .branch
  | .jnz _ => .branch
  | .jz _ => .branch
  | .jnc _ => .branch
  | .jc _ => .branch
  | .jpo _ => .branch
  | .jpe _ => .branch
  | .jp _ => .branch
  | .jm _ => .branch
  | .call _ => .branch
  | .cnz _ => .branch
  | .cz _ => .branch
  | .cnc _ => .branch
  | .cc _ => .branch
  | .cpo _ => .branch
  | .cpe _ => .branch
  | .cp _ => .branch
  | .cm _ => .branch
  | .ret => .branch
  | .rnz => .branch
  | .rz => .branch
  | .rnc => .branch
  | .rc => .branch
  | .rpo => .branch
  | .rpe => .branch
  | .rp => .branch
  | .rm => .branch
  | .pchl => .branch
  | .rst _ => .branch
  | .push _ => .stack
  | .pop _ => .stack
  | .xthl => .stack
  | .sphl => .stack
  | .in_ _ => .peripheral
  | .out _ => .peripheral
  | .hlt => .peripheral
  | .nop => .peripheral
  | .ei => .peripheral
  | .di => .peripheral
  | .rim => .peripheral
  | .sim => .peripheral
  | .undefined _ => .peripheral

/-- The cycle column of R98; for a conditional instruction the taken count (R102). DESIGN CHOICE (log entry 33): the ten
bytes without a row have `-` in that column, and R389 gives the reset instruction no count; the listing row of a
`RESET_MNEMONIC` line shows 0. -/
def Instr.cycles : Instr → Nat
  | .mov .m _ => 7
  | .mov (.reg _) .m => 7
  | .mov (.reg _) (.reg _) => 4
  | .mvi .m _ => 10
  | .mvi (.reg _) _ => 7
  | .lxi _ _ => 10
  | .lda _ => 13
  | .sta _ => 13
  | .lhld _ => 16
  | .shld _ => 16
  | .ldax _ => 7
  | .stax _ => 7
  | .xchg => 4
  | .add .m => 7
  | .add (.reg _) => 4
  | .adi _ => 7
  | .adc .m => 7
  | .adc (.reg _) => 4
  | .aci _ => 7
  | .sub .m => 7
  | .sub (.reg _) => 4
  | .sui _ => 7
  | .sbb .m => 7
  | .sbb (.reg _) => 4
  | .sbi _ => 7
  | .inr .m => 10
  | .inr (.reg _) => 4
  | .dcr .m => 10
  | .dcr (.reg _) => 4
  | .inx _ => 6
  | .dcx _ => 6
  | .dad _ => 10
  | .daa => 4
  | .ana .m => 7
  | .ana (.reg _) => 4
  | .ani _ => 7
  | .xra .m => 7
  | .xra (.reg _) => 4
  | .xri _ => 7
  | .ora .m => 7
  | .ora (.reg _) => 4
  | .ori _ => 7
  | .cmp .m => 7
  | .cmp (.reg _) => 4
  | .cpi _ => 7
  | .rlc => 4
  | .rrc => 4
  | .ral => 4
  | .rar => 4
  | .cma => 4
  | .cmc => 4
  | .stc => 4
  | .jmp _ => 10
  | .jnz _ => 10
  | .jz _ => 10
  | .jnc _ => 10
  | .jc _ => 10
  | .jpo _ => 10
  | .jpe _ => 10
  | .jp _ => 10
  | .jm _ => 10
  | .call _ => 18
  | .cnz _ => 18
  | .cz _ => 18
  | .cnc _ => 18
  | .cc _ => 18
  | .cpo _ => 18
  | .cpe _ => 18
  | .cp _ => 18
  | .cm _ => 18
  | .ret => 10
  | .rnz => 12
  | .rz => 12
  | .rnc => 12
  | .rc => 12
  | .rpo => 12
  | .rpe => 12
  | .rp => 12
  | .rm => 12
  | .pchl => 6
  | .rst _ => 12
  | .push _ => 12
  | .pop _ => 10
  | .xthl => 16
  | .sphl => 6
  | .in_ _ => 10
  | .out _ => 10
  | .hlt => 5
  | .nop => 4
  | .ei => 4
  | .di => 4
  | .rim => 4
  | .sim => 4
  | .undefined _ => 0

/-- The second count of a conditional instruction, when it is not taken (R98, R102). -/
def Instr.cyclesNotTaken : Instr → Option Nat
  | .jnz _ => some 7
  | .jz _ => some 7
  | .jnc _ => some 7
  | .jc _ => some 7
  | .jpo _ => some 7
  | .jpe _ => some 7
  | .jp _ => some 7
  | .jm _ => some 7
  | .cnz _ => some 9
  | .cz _ => some 9
  | .cnc _ => some 9
  | .cc _ => some 9
  | .cpo _ => some 9
  | .cpe _ => some 9
  | .cp _ => some 9
  | .cm _ => some 9
  | .rnz => some 6
  | .rz => some 6
  | .rnc => some 6
  | .rc => some 6
  | .rpo => some 6
  | .rpe => some 6
  | .rp => some 6
  | .rm => some 6
  | _ => none

/-! ### Operand text (R131), for listings and for the table -/

/-- One hexadecimal digit, upper case (R121). -/
def hexChar (n : BitVec 4) : Char :=
  if n.toNat < 10 then Char.ofNat (48 + n.toNat) else Char.ofNat (55 + n.toNat)

/-- An 8-bit literal: two hexadecimal digits and `H`. -/
def text8 (v : Byte) : Text := [hexChar (v.extractLsb' 4 4), hexChar (v.extractLsb' 0 4), 'H']

/-- A 16-bit literal: four hexadecimal digits and `H`. -/
def text16 (v : Word) : Text :=
  [hexChar (v.extractLsb' 12 4), hexChar (v.extractLsb' 8 4), hexChar (v.extractLsb' 4 4), hexChar (v.extractLsb' 0 4),
   'H']

/-- The name of a register. -/
def Reg.text : Reg → Text
  | .a => ['A']
  | .b => ['B']
  | .c => ['C']
  | .d => ['D']
  | .e => ['E']
  | .h => ['H']
  | .l => ['L']

/-- The name of a register or `M`. -/
def RegM.text : RegM → Text
  | .reg r => Reg.text r
  | .m => ['M']

/-- The name of a pair: its high register (R22). -/
def Pair.text : Pair → Text
  | .b => ['B']
  | .d => ['D']
  | .h => ['H']

/-- The name of an operand of {B, D, H, SP}. -/
def PairSp.text : PairSp → Text
  | .pair p => Pair.text p
  | .sp => ['S', 'P']

/-- The name of an operand of {B, D, H, PSW}. -/
def PairPsw.text : PairPsw → Text
  | .pair p => Pair.text p
  | .psw => ['P', 'S', 'W']

/-- The name of an operand of {B, D}. -/
def PairBD.text : PairBD → Text
  | .b => ['B']
  | .d => ['D']

/-- The operand text of an instruction in assembler form (R98, R103). -/
def Instr.operandText : Instr → Text
  | .mov dst src => RegM.text dst ++ [','] ++ RegM.text src
  | .mvi dst d8 => RegM.text dst ++ [','] ++ text8 d8
  | .lxi rp d16 => PairSp.text rp ++ [','] ++ text16 d16
  | .lda a16 => text16 a16
  | .sta a16 => text16 a16
  | .lhld a16 => text16 a16
  | .shld a16 => text16 a16
  | .ldax rp => PairBD.text rp
  | .stax rp => PairBD.text rp
  | .xchg => []
  | .add src => RegM.text src
  | .adi d8 => text8 d8
  | .adc src => RegM.text src
  | .aci d8 => text8 d8
  | .sub src => RegM.text src
  | .sui d8 => text8 d8
  | .sbb src => RegM.text src
  | .sbi d8 => text8 d8
  | .inr dst => RegM.text dst
  | .dcr dst => RegM.text dst
  | .inx rp => PairSp.text rp
  | .dcx rp => PairSp.text rp
  | .dad rp => PairSp.text rp
  | .daa => []
  | .ana src => RegM.text src
  | .ani d8 => text8 d8
  | .xra src => RegM.text src
  | .xri d8 => text8 d8
  | .ora src => RegM.text src
  | .ori d8 => text8 d8
  | .cmp src => RegM.text src
  | .cpi d8 => text8 d8
  | .rlc => []
  | .rrc => []
  | .ral => []
  | .rar => []
  | .cma => []
  | .cmc => []
  | .stc => []
  | .jmp a16 => text16 a16
  | .jnz a16 => text16 a16
  | .jz a16 => text16 a16
  | .jnc a16 => text16 a16
  | .jc a16 => text16 a16
  | .jpo a16 => text16 a16
  | .jpe a16 => text16 a16
  | .jp a16 => text16 a16
  | .jm a16 => text16 a16
  | .call a16 => text16 a16
  | .cnz a16 => text16 a16
  | .cz a16 => text16 a16
  | .cnc a16 => text16 a16
  | .cc a16 => text16 a16
  | .cpo a16 => text16 a16
  | .cpe a16 => text16 a16
  | .cp a16 => text16 a16
  | .cm a16 => text16 a16
  | .ret => []
  | .rnz => []
  | .rz => []
  | .rnc => []
  | .rc => []
  | .rpo => []
  | .rpe => []
  | .rp => []
  | .rm => []
  | .pchl => []
  | .rst n => [Char.ofNat (48 + n.toNat)]
  | .push rp => PairPsw.text rp
  | .pop rp => PairPsw.text rp
  | .xthl => []
  | .sphl => []
  | .in_ p8 => text8 p8
  | .out p8 => text8 p8
  | .hlt => []
  | .nop => []
  | .ei => []
  | .di => []
  | .rim => []
  | .sim => []
  | .undefined _ => []

/-! ### Rows and the metadata query -/

/-- A row of the Opcode Table (R98), for one first byte; the operand bytes are shown as zeros. -/
structure TableRow where
  opcode : Byte
  mnemonic : Text
  operands : Text
  category : Category
  length : Nat
  cycles : Nat
  cyclesNotTaken : Option Nat
  deriving DecidableEq, Repr

/-- The row of a first byte; the ten undefined bytes have none (R99). -/
def tableRow (op : Byte) : Option TableRow :=
  let i := decodeInstr op 0 0
  match i with
  | .undefined _ => none
  | _ => some { opcode := op, mnemonic := Instr.mnemonic i, operands := Instr.operandText i,
                category := Instr.category i, length := i.length, cycles := Instr.cycles i,
                cyclesNotTaken := Instr.cyclesNotTaken i }

/-- The Opcode Table: its 246 rows in byte order. -/
def opcodeTable : List TableRow := (List.range 256).filterMap (fun n => tableRow (BitVec.ofNat 8 n))

/-- The metadata query (R102, R160): byte length, cycle count and opcode of every row of a mnemonic (log entry 25); an
unknown mnemonic is `UnknownInstruction` (R103). It reads no state. -/
def metadataQuery (word : Text) : Except Fault (List TableRow) :=
  match opcodeTable.filter (fun row => row.mnemonic == word) with
  | [] => .error (.unknownInstruction (.word word))
  | rows => .ok rows

end Sys2Proof.Machine
end

