-- ==== Sys2Proof/Machine/Validator.lean ====
section
/-! DEFINITION. 35_assembler.md R130 to R137: the Syntax Validator. It is pure: it reads a mnemonic, an operand string,
the parameters and (for the last step) a Label Table, and writes nothing. -/

namespace Sys2Proof.Machine

/-! ### Text -/

/-- A blank of R121: space or tab; a carriage return counts as one (log entry 15). -/
def isBlank (c : Char) : Bool := c == ' ' || c == '\t' || c == '\r'

/-- Leading and trailing blanks removed (R121). -/
def trim (t : Text) : Text := ((t.dropWhile isBlank).reverse.dropWhile isBlank).reverse

/-- The pieces of a text between the occurrences of a character; always at least one piece. -/
def splitOn (c : Char) : Text → List Text
  | [] => [[]]
  | x :: rest =>
    if x = c then [] :: splitOn c rest
    else
      match splitOn c rest with
      | [] => [[x]]
      | p :: ps => (x :: p) :: ps

/-- A letter or `_`, the first character of an identifier (R121). -/
def isIdentStart (c : Char) : Bool := c.isAlpha || c == '_'

/-- A letter, digit or `_` (R121). -/
def isIdentChar (c : Char) : Bool := c.isAlpha || c.isDigit || c == '_'

/-- An identifier (R121). -/
def isIdent : Text → Bool
  | [] => false
  | c :: rest => isIdentStart c && rest.all isIdentChar

/-- An upper-case hexadecimal digit (R121). -/
def hexDigit (c : Char) : Option (BitVec 4) :=
  if '0' ≤ c ∧ c ≤ '9' then some (BitVec.ofNat 4 (c.toNat - 48))
  else if 'A' ≤ c ∧ c ≤ 'F' then some (BitVec.ofNat 4 (c.toNat - 55))
  else none

/-- The 8-bit literal shape (R131): two hexadecimal digits and `H`. -/
def literal8 : Text → Option Byte
  | [x, y, 'H'] =>
    match hexDigit x, hexDigit y with
    | some a, some b => some (a ++ b)
    | _, _ => none
  | _ => none

/-- The 16-bit literal shape (R131): four hexadecimal digits and `H`. -/
def literal16 : Text → Option Word
  | [x, y, z, w, 'H'] =>
    match hexDigit x, hexDigit y, hexDigit z, hexDigit w with
    | some a, some b, some c, some d => some (a ++ b ++ c ++ d)
    | _, _, _, _ => none
  | _ => none

/-! ### One operand position: shape, then domain (R133, R134) -/

/-- An error kind with the operand position it was found at, 0 for the whole operand string (R431). -/
structure ValError where
  kind : Fault
  pos : Nat
  deriving DecidableEq, Repr

/-- A 16-bit operand before label resolution: a literal, with the token it was written as, or a label reference. -/
inductive AddrToken where
  | literal (v : Word) (token : Text)
  | label (name : Text)
  deriving DecidableEq, Repr

/-- End the validation with an error at a position. -/
def failAt {α : Type} (pos : Nat) (k : Fault) : Except ValError α := .error { kind := k, pos := pos }

/-- The name of a register of {A, B, C, D, E, H, L, M}. -/
def regNamed (c : Char) : Option RegM :=
  match c with
  | 'A' => some (.reg .a)
  | 'B' => some (.reg .b)
  | 'C' => some (.reg .c)
  | 'D' => some (.reg .d)
  | 'E' => some (.reg .e)
  | 'H' => some (.reg .h)
  | 'L' => some (.reg .l)
  | 'M' => some .m
  | _ => none

/-- A register position: `MissingOperand`, then `SyntaxError` by length, then `InvalidRegister` (R133, R134). -/
def checkReg (pos : Nat) (token : Text) : Except ValError RegM :=
  match token with
  | [] => failAt pos (.missingOperand pos)
  | [c] =>
    match regNamed c with
    | some o => .ok o
    | none => failAt pos (.invalidRegister token)
  | _ => failAt pos (.syntaxError .register pos)

/-- What a pair token that passed the shape step may be: a one-character name, `SP` or `PSW` (R133). -/
inductive PairName where
  | pair (p : Pair)
  | sp
  | psw
  | other
  deriving DecidableEq, Repr

/-- The shape step of a pair position (R133). -/
def checkPairShape (pos : Nat) (token : Text) : Except ValError PairName :=
  match token with
  | [] => failAt pos (.missingOperand pos)
  | ['B'] => .ok (.pair .b)
  | ['D'] => .ok (.pair .d)
  | ['H'] => .ok (.pair .h)
  | ['S', 'P'] => .ok .sp
  | ['P', 'S', 'W'] => .ok .psw
  | [_] => .ok .other
  | _ => failAt pos (.syntaxError .registerPair pos)

/-- A position of the set {B, D, H, SP} (R134, R437). -/
def checkPairSp (pos : Nat) (token : Text) : Except ValError PairSp := do
  match ← checkPairShape pos token with
  | .pair p => pure (.pair p)
  | .sp => pure .sp
  | .psw | .other => failAt pos (.invalidRegisterPair token)

/-- A position of the set {B, D, H, PSW} (R134, R437). -/
def checkPairPsw (pos : Nat) (token : Text) : Except ValError PairPsw := do
  match ← checkPairShape pos token with
  | .pair p => pure (.pair p)
  | .psw => pure .psw
  | .sp | .other => failAt pos (.invalidRegisterPair token)

/-- A position of the set {B, D}: `H` is `RegisterPairNotAllowed`, anything else `InvalidRegisterPair` (R134, R438). -/
def checkPairBD (pos : Nat) (token : Text) : Except ValError PairBD := do
  match ← checkPairShape pos token with
  | .pair .b => pure .b
  | .pair .d => pure .d
  | .pair .h => failAt pos (.registerPairNotAllowed token)
  | .sp | .psw | .other => failAt pos (.invalidRegisterPair token)

/-- An 8-bit immediate position (R133, R134, R442). -/
def checkImm (pos : Nat) (token : Text) : Except ValError Byte :=
  if token = [] then failAt pos (.missingOperand pos)
  else if token.length ≠ 3 then failAt pos (.syntaxError .immediate8 pos)
  else
    match literal8 token with
    | some v => .ok v
    | none => failAt pos (.invalidImmediateData token)

/-- A port position (R133, R134, R440). -/
def checkPort (pos : Nat) (token : Text) : Except ValError Byte :=
  if token = [] then failAt pos (.missingOperand pos)
  else if token.length ≠ 3 then failAt pos (.syntaxError .port8 pos)
  else
    match literal8 token with
    | some v => .ok v
    | none => failAt pos (.invalidPortAddress token)

/-- The addressable memory map (R61, R134). -/
def inMap (cfg : Params) (a : Nat) : Bool := decide (cfg.memMapLo.toNat ≤ a) && decide (a ≤ cfg.memMapHi.toNat)

/-- Whether a token is five characters ending in `H`, the malformed address token of decision D33. -/
def looksLikeAddress (token : Text) : Bool := token.length == 5 && token.getLast? == some 'H'

/-- A 16-bit position (R133, R134): a literal within the memory map, else an identifier as a label reference, else the
error of a malformed token. -/
def checkAddr (cfg : Params) (pos : Nat) (token : Text) : Except ValError AddrToken :=
  if token = [] then failAt pos (.missingOperand pos)
  else
    match literal16 token with
    | some v =>
      if inMap cfg v.toNat then .ok (.literal v token)
      else failAt pos (.invalidMemoryAddress (.address v.toNat))
    | none =>
      if isIdent token then .ok (.label token)
      else if looksLikeAddress token then failAt pos (.invalidMemoryAddress (.token token))
      else failAt pos (.syntaxError .address16 pos)

/-- The vector position of `RST` (R131, R134, decision D34). -/
def checkVector (pos : Nat) (token : Text) : Except ValError (BitVec 3) :=
  match token with
  | [] => failAt pos (.missingOperand pos)
  | [c] => if '0' ≤ c ∧ c ≤ '7' then .ok (BitVec.ofNat 3 (c.toNat - 48)) else failAt pos (.syntaxError .vector pos)
  | _ => failAt pos (.syntaxError .vector pos)

/-! ### Arity, and the positions of a form in order (R132, R136, R137) -/

/-- The result of the arity, shape and domain steps: an instruction, one that waits for its 16-bit operand, or the reset
instruction under its mnemonic (R389), which has an encoding only where `RESET_OPCODE` is set. -/
inductive Checked where
  | plain (i : Instr)
  | withAddr (mk : Word → Instr) (pos : Nat) (a : AddrToken)
  | reset

/-- Arity for no operand (R132). -/
def arity0 (ops : Text) : Except ValError Unit :=
  if trim ops = [] then .ok () else failAt 0 (.unexpectedOperand ops)

/-- Arity for one operand (R132): a separator is a `SyntaxError`. -/
def arity1 (ops : Text) : Except ValError Text :=
  if ops.contains ',' then failAt 0 (.syntaxError .oneOperand 0) else .ok (trim ops)

/-- Arity for two operands (R132): no separator is `MissingSeparator`, more than one a `SyntaxError`. -/
def arity2 (ops : Text) : Except ValError (Text × Text) :=
  match splitOn ',' ops with
  | [x, y] => .ok (trim x, trim y)
  | [] | [_] => failAt 0 .missingSeparator
  | _ => failAt 0 (.syntaxError .twoOperands 0)

/-- The steps 1 to 3 of R132 to R134 for a mnemonic's form. DESIGN CHOICE (log entry 18): `MOV M,M`, an error of both
operands together, records position 2. -/
def checkForm (cfg : Params) (form : Form) (ops : Text) : Except ValError Checked :=
  match form with
  | .none0 i => do
    arity0 ops
    pure (.plain i)
  | .mov => do
    let (x, y) ← arity2 ops
    let d ← checkReg 1 x
    let s ← checkReg 2 y
    if d = .m ∧ s = .m then failAt 2 (.invalidRegister y) else pure (.plain (.mov d s))
  | .mvi => do
    let (x, y) ← arity2 ops
    let d ← checkReg 1 x
    let v ← checkImm 2 y
    pure (.plain (.mvi d v))
  | .lxi => do
    let (x, y) ← arity2 ops
    let p ← checkPairSp 1 x
    let a ← checkAddr cfg 2 y
    pure (.withAddr (.lxi p) 2 a)
  | .regM mk => do
    let x ← arity1 ops
    let o ← checkReg 1 x
    pure (.plain (mk o))
  | .pairSp mk => do
    let x ← arity1 ops
    let o ← checkPairSp 1 x
    pure (.plain (mk o))
  | .pairPsw mk => do
    let x ← arity1 ops
    let o ← checkPairPsw 1 x
    pure (.plain (mk o))
  | .pairBD mk => do
    let x ← arity1 ops
    let o ← checkPairBD 1 x
    pure (.plain (mk o))
  | .imm mk => do
    let x ← arity1 ops
    let v ← checkImm 1 x
    pure (.plain (mk v))
  | .addr mk => do
    let x ← arity1 ops
    let a ← checkAddr cfg 1 x
    pure (.withAddr mk 1 a)
  | .port mk => do
    let x ← arity1 ops
    let v ← checkPort 1 x
    pure (.plain (mk v))
  | .vector => do
    let x ← arity1 ops
    let n ← checkVector 1 x
    pure (.plain (.rst n))
  | .reset => do
    arity0 ops
    pure .reset

/-- The Label Table's address of a name (R150, R151): the one binding it has. -/
def labelAddr (labels : List (Text × Nat)) (name : Text) : Option Nat :=
  (labels.find? (fun b => b.1 == name)).map (fun b => b.2)

/-- Step 4, label resolution (R135): an unbound name is `UndefinedLabel`; an address outside the memory map, or just
past FFFFH (log entry 19), is `InvalidMemoryAddress`. -/
def resolveAddr (cfg : Params) (labels : List (Text × Nat)) (pos : Nat) (a : AddrToken) : Except ValError Word :=
  match a with
  | .literal v _ => .ok v
  | .label name =>
    match labelAddr labels name with
    | none => failAt pos (.undefinedLabel name)
    | some x => if inMap cfg x then .ok (BitVec.ofNat 16 x) else failAt pos (.invalidMemoryAddress (.address x))

/-- The encoding that `RESET_MNEMONIC` stands for (R389): the byte `RESET_OPCODE`. With none set there is no byte to emit, and
the word is `UnknownInstruction` wherever an encoding is asked for (log entry 27). -/
def resetEncoding (cfg : Params) : Except ValError Instr :=
  match cfg.resetOpcode with
  | some op => .ok (.undefined op)
  | none => failAt 0 (.unknownInstruction (.word (cfg.resetMnemonic.getD [])))

/-- The four steps against a Label Table. -/
def resolve (cfg : Params) (labels : List (Text × Nat)) (c : Checked) : Except ValError Instr :=
  match c with
  | .plain i => .ok i
  | .withAddr mk pos a => do
    let v ← resolveAddr cfg labels pos a
    pure (mk v)
  | .reset => resetEncoding cfg

/-- The table lookup and steps 1 to 3 (R122, R132 to R134). The position of an unknown word is 0, a DESIGN CHOICE (log
entry 18). -/
def checkLine (cfg : Params) (word ops : Text) : Except ValError Checked :=
  match lookupForm cfg word with
  | none => failAt 0 (.unknownInstruction (.word word))
  | some form => checkForm cfg form ops

/-- `validate(mnemonic, operandString, labelTable)` (R130). -/
def validate (cfg : Params) (word ops : Text) (labels : List (Text × Nat)) : Except ValError Instr := do
  let c ← checkLine cfg word ops
  resolve cfg labels c

end Sys2Proof.Machine
end

