-- ==== Sys2Proof/Machine/Block.lean ====
section
/-! DEFINITION. 47_block_mode.md: the Execution Engine in block mode (R400 to R410). Every instruction but the Branch
instructions and `HLT` does what its linear-mode meaning does (R406); the cursor takes the place of `pc`, which is
neither read nor written (R402). -/

namespace Sys2Proof.Machine

/-- `Outcome = Normal | Target(label, isCall) | Return | NotTaken | Halt` (R404). -/
inductive HandlerOutcome where
  | normal
  | target (label : Text) (isCall : Bool)
  | ret
  | notTaken
  | halt
  deriving DecidableEq, Repr

/-- The control-flow class of an instruction in block mode (R406 to R410); no condition means always taken. -/
inductive BlockClass where
  | ordinary
  | jump (ccc : Option Cond)
  | call (ccc : Option Cond)
  | ret (ccc : Option Cond)
  /-- `PCHL` and `RST`: they name addresses, and blocks have none (R410). -/
  | addressOnly
  | halt
  /-- the reset instruction: "resets and returns `Halt`" (R410). -/
  | reset
  deriving DecidableEq, Repr

/-- The class of each instruction. -/
def blockClass : Instr → BlockClass
  | .jmp _ => .jump none
  | .jnz _ => .jump (some .nz)
  | .jz _ => .jump (some .z)
  | .jnc _ => .jump (some .nc)
  | .jc _ => .jump (some .c)
  | .jpo _ => .jump (some .po)
  | .jpe _ => .jump (some .pe)
  | .jp _ => .jump (some .p)
  | .jm _ => .jump (some .m)
  | .call _ => .call none
  | .cnz _ => .call (some .nz)
  | .cz _ => .call (some .z)
  | .cnc _ => .call (some .nc)
  | .cc _ => .call (some .c)
  | .cpo _ => .call (some .po)
  | .cpe _ => .call (some .pe)
  | .cp _ => .call (some .p)
  | .cm _ => .call (some .m)
  | .ret => .ret none
  | .rnz => .ret (some .nz)
  | .rz => .ret (some .z)
  | .rnc => .ret (some .nc)
  | .rc => .ret (some .c)
  | .rpo => .ret (some .po)
  | .rpe => .ret (some .pe)
  | .rp => .ret (some .p)
  | .rm => .ret (some .m)
  | .pchl | .rst _ => .addressOnly
  | .hlt => .halt
  | .undefined _ => .reset
  | .mov _ _ | .mvi _ _ | .lxi _ _ | .lda _ | .sta _ | .lhld _ | .shld _ | .ldax _ | .stax _ | .xchg => .ordinary
  | .add _ | .adi _ | .adc _ | .aci _ | .sub _ | .sui _ | .sbb _ | .sbi _ | .inr _ | .dcr _ => .ordinary
  | .inx _ | .dcx _ | .dad _ | .daa => .ordinary
  | .ana _ | .ani _ | .xra _ | .xri _ | .ora _ | .ori _ | .cmp _ | .cpi _ => .ordinary
  | .rlc | .rrc | .ral | .rar | .cma | .cmc | .stc => .ordinary
  | .push _ | .pop _ | .xthl | .sphl | .in_ _ | .out _ | .nop | .ei | .di | .rim | .sim => .ordinary

/-- Whether a condition holds; none means an unconditional form (R407 to R409). -/
def condHolds (f : Flags) : Option Cond → Bool
  | none => true
  | some ccc => cond f ccc

/-- The lines of a block; a label that is no key has none (R400). -/
def blockLines (b : BlockRun) (label : Text) : List Line :=
  match b.blocks.find? (fun x => x.1 == label) with
  | some x => x.2
  | none => []

/-- Whether a label is a key of the block map (R404). -/
def isBlock (b : BlockRun) (label : Text) : Bool := b.blocks.any (fun x => x.1 == label)

/-- The name a branch operand has in block mode: a label, or the literal as it was written, which names no block
(R410). -/
def targetName : AddrToken → Text
  | .literal _ token => token
  | .label name => name

/-- Whether a branch operand can name a block: a literal cannot (R410). -/
def targetIsLabel : AddrToken → Bool
  | .literal _ _ => false
  | .label _ => true

/-- The class of a checked line. Of an instruction whose 16-bit operand is not yet, or never, an address, the class does
not depend on the operand. -/
def Checked.blockClass : Checked → BlockClass
  | .plain i => Machine.blockClass i
  | .withAddr mk _ _ => Machine.blockClass (mk 0)
  | .reset => .reset

/-- Move the cursor (R402). -/
def setCursor (b : BlockRun) (label : Text) (idx : Nat) : BlockRun := { b with cur := label, idx := idx }

/-- Act on a handler's outcome (R404): the label check precedes the push, so a call to an absent block changes
nothing. `b` is the run before the instruction, `s` the state after its handler. -/
def actOn (b : BlockRun) (o : HandlerOutcome) (targetOk : Bool) (s : State) : Except Fault State :=
  match o with
  | .normal | .notTaken => .ok { s with block := some (setCursor b b.cur (b.idx + 1)) }
  | .target t isCall =>
    if !(targetOk && isBlock b t) then raise (.undefinedLabel t)
    else if !isCall then .ok { s with block := some (setCursor b t 0) }
    else if b.callstack.length ≥ s.cfg.callDepthMax then raise (.stackOverflow (.cursor b.cur b.idx))
    else .ok { s with block := some { setCursor b t 0 with callstack := (b.cur, b.idx + 1) :: b.callstack } }
  | .ret =>
    match b.callstack with
    | [] => raise (.stackUnderflow (.cursor b.cur b.idx))
    | (label, idx) :: rest => .ok { s with block := some { setCursor b label idx with callstack := rest } }
  | .halt => .ok s

/-- The handler of a Branch instruction in block mode (R407 to R409): a condition is evaluated before anything else. -/
def branchOutcome (f : Flags) (cls : BlockClass) (name : Text) : HandlerOutcome :=
  match cls with
  | .jump ccc => if condHolds f ccc then .target name false else .notTaken
  | .call ccc => if condHolds f ccc then .target name true else .notTaken
  | .ret ccc => if condHolds f ccc then .ret else .notTaken
  | .ordinary | .addressOnly => .normal
  | .halt | .reset => .halt

/-- The linear-mode meaning, then the cursor (R406); a halting instruction leaves the cursor where it is (R404). -/
def runOrdinary (b : BlockRun) (o : HandlerOutcome) (i : Instr) (s : State) : Host.Outcome State Fault Refusal :=
  match exec i s with
  | .next t => ofExcept (actOn b o true t)
  | .fault k => .fault k
  | .refused w => .refused w

/-- The branch operand of a checked line (R407 to R409): the name it gives the target, and whether that name can be a
block's. A return has none. -/
def Checked.target : Checked → Text × Bool
  | .plain _ | .reset => ([], true)
  | .withAddr _ _ a => (targetName a, targetIsLabel a)

/-- Run one checked line (R403, R406 to R410). A data address must be a literal: there is no Label Table of addresses
in block mode, so a label is `UndefinedLabel`. The reset instruction needs its mnemonic alone, no byte: encodings do not
exist in this mode (R403, R410). -/
def runLine (b : BlockRun) (word : Text) (c : Checked) (s : State) : Host.Outcome State Fault Refusal :=
  match Checked.blockClass c with
  | .addressOnly => ofExcept (raise (.unknownInstruction (.word word)))
  | .ordinary =>
    match resolve s.cfg [] c with
    | .error e => .fault e.kind
    | .ok i => runOrdinary b .normal i s
  | .halt => runOrdinary b .halt .hlt s
  | .reset => ofExcept (actOn b .halt true (resetInstruction s))
  | cls => ofExcept (actOn b (branchOutcome s.f cls (Checked.target c).1) (Checked.target c).2 s)

/-- The checks of R405 (1) to (3): budget, end of the block, validation and table lookup. -/
def fetchLine (b : BlockRun) (s : State) : Except Fault (Text × Checked) := do
  checkBudget (.cursor b.cur b.idx) s
  match (blockLines b b.cur)[b.idx]? with
  | none => raise (.ambiguousHalt b.cur)
  | some line =>
    match checkLine s.cfg line.mnemonic line.operands with
    | .error e => raise e.kind
    | .ok c => pure (line.mnemonic, c)

/-- One step in block mode (R405). -/
def blockStep (b : BlockRun) (s : State) : Host.Outcome State Fault Refusal :=
  match fetchLine b (countStep s) with
  | .error k => .fault k
  | .ok (word, c) => runLine b word c (countStep s)

end Sys2Proof.Machine
end

