-- ==== Sys2Proof/Machine/Step.lean ====
section
/-! DEFINITION. One step of the machine, and the placing of a word where the next step fetches it. -/

namespace Sys2Proof.Machine

/-- One step of the run that the state is in: linear (R180) or block (R405). A run that has ended takes no further step
(R177, U30): it is refused by name. -/
def step (s : State) : Host.Outcome State Fault Refusal :=
  if s.halted then .refused .runEnded
  else
    match s.block with
    | none => linearStep s
    | some b => blockStep b s

/-- Place bytes from `a` on, as far as memory goes. -/
def placeWithin (mem : List Host.Cell) (a : Nat) : List Byte → List Host.Cell
  | [] => mem
  | v :: rest => if a < 65536 then placeWithin (cellWrite resetMem mem a v) (a + 1) rest else mem

/-- `s` with an instruction, given as a table word, stored at `pc` and marked as assembled there (R41), in a linear run
that has not ended and has its whole budget: what Assemble and the start of a run do for a program whose entry is `pc`
(log entry 10). -/
def State.withFetchWord (s : State) (nbits w : Nat) : State :=
  { s with mem := placeWithin s.mem s.pc.toNat (tableBytes nbits w), istart := addrInsert s.istart s.pc.toNat,
           halted := false, steps := 0, block := none }

end Sys2Proof.Machine
end

