-- ==== Sys2Proof/Machine/Assembler.lean ====
section
/-! DEFINITION. 35_assembler.md: source lines, directives, Pass 1, Pass 2 and the Assemble operation (R120 to R160). -/

namespace Sys2Proof.Machine

/-! ### Lines (R120, R121) -/

/-- What a line holds after its label and comment are taken off. -/
inductive Stmt where
  | blank
  | org (ops : Text)
  | db (ops : Text)
  | instr (word ops : Text)
  deriving DecidableEq, Repr

/-- A source line: its number from 1, its text, its label if it opens with one, and its statement. -/
structure SourceLine where
  no : Nat
  text : Text
  label : Option Text
  stmt : Stmt
  deriving DecidableEq, Repr

/-- Everything before the first `;` (R121 (a)). -/
def stripComment (t : Text) : Text := t.takeWhile (fun c => c != ';')

/-- `identifier:` at the start of a line (R120): the name and what follows the `:`. -/
def splitLabel (t : Text) : Option (Text × Text) :=
  let name := t.takeWhile isIdentChar
  if isIdent name then
    match t.dropWhile isIdentChar with
    | ':' :: rest => some (name, rest)
    | _ => none
  else none

/-- The first word and the operand string (R121 (b)), or a directive (R122). -/
def parseStmt (t : Text) : Stmt :=
  let body := trim t
  let word := body.takeWhile (fun c => !isBlank c)
  let ops := trim (body.dropWhile (fun c => !isBlank c))
  if word = [] then .blank
  else if word = "ORG".toList then .org ops
  else if word = "DB".toList then .db ops
  else .instr word ops

/-- One line of the program. -/
def parseLine (no : Nat) (text : Text) : SourceLine :=
  let body := trim (stripComment text)
  match splitLabel body with
  | some (name, rest) => { no := no, text := text, label := some name, stmt := parseStmt rest }
  | none => { no := no, text := text, label := none, stmt := parseStmt body }

/-- Number the lines of a text from `no` on. -/
def numberLines (no : Nat) : List Text → List SourceLine
  | [] => []
  | t :: rest => parseLine no t :: numberLines (no + 1) rest

/-- The source text as lines, top to bottom (R120). -/
def sourceLines (src : Text) : List SourceLine := numberLines 1 (splitOn '\n' src)

/-! ### Errors -/

/-- The error record of R431. Only `kind` is normative; `hint` is free text (U14). -/
structure AsmError where
  kind : Fault
  mnemonic : Text
  operands : Text
  lineNo : Nat
  lineText : Text
  position : Nat
  hint : Text
  deriving DecidableEq, Repr

/-- The word and the operand string of a statement, as an error record names them. -/
def stmtText : Stmt → Text × Text
  | .blank => ([], [])
  | .org ops => ("ORG".toList, ops)
  | .db ops => ("DB".toList, ops)
  | .instr word ops => (word, ops)

/-- The record of an error found on a line. -/
def errorOn (line : SourceLine) (e : ValError) : AsmError :=
  { kind := e.kind, mnemonic := (stmtText line.stmt).1, operands := (stmtText line.stmt).2, lineNo := line.no,
    lineText := line.text, position := e.pos, hint := Config.hintText (stmtText line.stmt).1 line.no }

/-! ### Directives (R140, R141) -/

/-- The value of the operand of `ORG` (R140, log entry 20): one 16-bit literal, not a label. It is all that Pass 1 needs,
and the memory map is not asked (R150, log entry 16). -/
def orgValue (ops : Text) : Except ValError Nat := do
  let token ← arity1 ops
  if token = [] then failAt 1 (.missingOperand 1)
  else
    match literal16 token with
    | some v => pure v.toNat
    | none =>
      if looksLikeAddress token && !isIdent token then failAt 1 (.invalidMemoryAddress (.token token))
      else failAt 1 (.syntaxError .literal16 1)

/-- The operand of `ORG` validated, in Pass 2 (R134, R140, R155): its value, which must be within the memory map. -/
def orgOperand (cfg : Params) (ops : Text) : Except ValError Nat := do
  let a ← orgValue ops
  if inMap cfg a then pure a else failAt 1 (.invalidMemoryAddress (.address a))

/-- The tokens of a `DB` line, at least one (R141). -/
def dbTokens (ops : Text) : List Text := (splitOn ',' ops).map trim

/-- The bytes of a `DB` line: 8-bit literals, checked left to right (R141, R442). -/
def dbBytes (pos : Nat) : List Text → Except ValError (List Byte)
  | [] => .ok []
  | token :: rest => do
    let v ← checkImm pos token
    let vs ← dbBytes (pos + 1) rest
    pure (v :: vs)

/-- The two placement counters and whether an `ORG` has been seen (R141, R150). They are unbounded naturals: a counter
may stand at 65536, just past the last byte (R152). -/
structure Counters where
  lc : Nat
  dp : Nat
  orgSeen : Bool
  deriving DecidableEq, Repr

/-- The counters at the start of either pass (R150, R155). -/
def Counters.start (cfg : Params) : Counters :=
  { lc := cfg.origin.toNat, dp := cfg.dbBase.toNat, orgSeen := false }

/-- Where a `DB` line places its bytes (R141): in line after an `ORG`, at the data pointer before any. -/
def dbAddr (k : Counters) : Nat := if k.orgSeen then k.lc else k.dp

/-- The counters after a `DB` of `n` bytes (R141). -/
def dbAdvance (k : Counters) (n : Nat) : Counters :=
  if k.orgSeen then { k with lc := k.lc + n } else { k with dp := k.dp + n }

/-- The address a label on this line is bound to (R141, R150, decision D35). -/
def labelTarget (k : Counters) (line : SourceLine) : Nat :=
  match line.stmt with
  | .db _ => dbAddr k
  | _ => k.lc

/-- Placement of `n` bytes from `a` on must stay within memory (R152); the first address past FFFFH is recorded. The error
is the whole line's: its position is 0, a DESIGN CHOICE (log entry 18). -/
def checkPlacement (a n : Nat) : Except ValError Unit :=
  if a + n > 65536 then failAt 0 (.invalidMemoryAddress (.address (max a 65536 : Nat))) else .ok ()

/-! ### Pass 1 (R150 to R152) -/

/-- The state of Pass 1. -/
structure PassOne where
  k : Counters
  labels : List (Text × Nat)
  warnings : List (Text × Nat)
  deriving DecidableEq, Repr

/-- Bind a label: the first definition wins, a second is a warning with its line (R151). -/
def bindLabel (p : PassOne) (line : SourceLine) : PassOne :=
  match line.label with
  | none => p
  | some name =>
    match labelAddr p.labels name with
    | none => { p with labels := p.labels ++ [(name, labelTarget p.k line)] }
    | some _ => { p with warnings := p.warnings ++ [(name, line.no)] }

/-- Advance the counters over a statement in Pass 1 (R150), which validates nothing else: it needs a mnemonic's length, the
value of `ORG` and the number of bytes of `DB` (log entry 16). The position of an unknown word is 0, a DESIGN CHOICE (log
entry 18). -/
def passOneStmt (cfg : Params) (k : Counters) : Stmt → Except ValError Counters
  | .blank => .ok k
  | .org ops => do
    let a ← orgValue ops
    pure { k with lc := a, orgSeen := true }
  | .db ops => do
    checkPlacement (dbAddr k) (dbTokens ops).length
    pure (dbAdvance k (dbTokens ops).length)
  | .instr word _ =>
    match lookupForm cfg word with
    | none => failAt 0 (.unknownInstruction (.word word))
    | some form => do
      checkPlacement k.lc (Form.length form)
      pure { k with lc := k.lc + Form.length form }

/-- Pass 1 over the lines, top to bottom; the first error ends it (R150, R455). -/
def passOne (cfg : Params) (p : PassOne) : List SourceLine → Except AsmError PassOne
  | [] => .ok p
  | line :: rest =>
    match passOneStmt cfg p.k line.stmt with
    | .error e => .error (errorOn line e)
    | .ok k => passOne cfg { bindLabel p line with k := k } rest

/-! ### Pass 2 (R155 to R157) -/

/-- The state of Pass 2. `seen` holds the names that the lines so far define, so that a redefinition (R151) is told from
a definition; `pending` is the label defined on the label-only lines directly before the current line (R156, log
entry 17). -/
structure PassTwo where
  k : Counters
  mem : List Host.Cell
  istart : List Nat
  listing : List ListingRow
  seen : List Text
  pending : Text
  deriving DecidableEq, Repr

/-- Place bytes from `a` on: the assembler's writes, not `MemWrite` (R155). A later byte at an address stays. -/
def placeBytes (mem : List Host.Cell) (a : Nat) : List Byte → List Host.Cell
  | [] => mem
  | v :: rest => placeBytes (cellWrite resetMem mem a v) (a + 1) rest

/-- The label a listing row carries (R156): the one its own line defines, else the pending one. A line that repeats a
name defines nothing (R151). -/
def rowLabel (p : PassTwo) (line : SourceLine) : Text :=
  match line.label with
  | none => p.pending
  | some name => if p.seen.contains name then p.pending else name

/-- The names defined up to and including a line. -/
def seeLabel (p : PassTwo) (line : SourceLine) : List Text :=
  match line.label with
  | none => p.seen
  | some name => if p.seen.contains name then p.seen else p.seen ++ [name]

/-- One line of Pass 2: validate against the Label Table, encode, write, list (R155). -/
def passTwoLine (cfg : Params) (labels : List (Text × Nat)) (p : PassTwo) (line : SourceLine) :
    Except ValError PassTwo :=
  match line.stmt with
  | .blank => .ok { p with seen := seeLabel p line, pending := rowLabel p line }
  | .org ops => do
    let a ← orgOperand cfg ops
    pure { p with k := { p.k with lc := a, orgSeen := true }, seen := seeLabel p line, pending := [] }
  | .db ops => do
    let vs ← dbBytes 1 (dbTokens ops)
    pure { p with k := dbAdvance p.k vs.length, mem := placeBytes p.mem (dbAddr p.k) vs, seen := seeLabel p line,
                  pending := [] }
  | .instr word ops => do
    let i ← validate cfg word ops labels
    pure { k := { p.k with lc := p.k.lc + i.length },
           mem := placeBytes p.mem p.k.lc (encode i),
           istart := addrInsert p.istart p.k.lc,
           listing := p.listing ++ [{ address := BitVec.ofNat 16 p.k.lc, label := rowLabel p line, mnemonic := word,
                                      opcode := opcodeByte i, cycles := Instr.cycles i, operands := ops,
                                      lineNo := line.no, lineText := line.text }],
           seen := seeLabel p line,
           pending := [] }

/-- Pass 2 over the lines, top to bottom; the first error ends it (R155, R157). -/
def passTwo (cfg : Params) (labels : List (Text × Nat)) (p : PassTwo) : List SourceLine → Except AsmError PassTwo
  | [] => .ok p
  | line :: rest =>
    match passTwoLine cfg labels p line with
    | .error e => .error (errorOn line e)
    | .ok q => passTwo cfg labels q rest

/-! ### Assemble (R160) -/

/-- What a successful Assemble gives: the memory and `istart` it leaves, the Label Table, the Assembled Listing, and
the warnings returned beside it (R463). -/
structure Assembled where
  mem : List Host.Cell
  istart : List Nat
  labels : List (Text × Nat)
  listing : List ListingRow
  warnings : List (Text × Nat)
  deriving DecidableEq, Repr

/-- The two passes over a source text, on a copy of memory (R157): a function of the text, the parameters and the
memory's earlier bytes (R161). -/
def assembleText (cfg : Params) (mem : List Host.Cell) (src : Text) : Except AsmError Assembled := do
  let lines := sourceLines src
  let one ← passOne cfg { k := Counters.start cfg, labels := [], warnings := [] } lines
  let two ← passTwo cfg one.labels
    { k := Counters.start cfg, mem := mem, istart := [], listing := [], seen := [], pending := [] } lines
  pure { mem := two.mem, istart := two.istart, labels := one.labels, listing := two.listing,
         warnings := one.warnings }

/-- The state after a successful Assemble: the bytes, the new `istart`, Label Table and listing, nothing else (R158,
R160). -/
def install (s : State) (x : Assembled) : State :=
  { s with mem := x.mem, istart := x.istart, labels := x.labels, listing := x.listing }

/-- The Assemble operation: on an error the state is unchanged, because none is given (R157, R460). -/
def assemble (s : State) (src : Text) : Except AsmError (State × Assembled) := do
  let x ← assembleText s.cfg s.mem src
  pure (install s x, x)

/-- The entry point (R160, R172): the address of the first listing row; an empty listing has none. -/
def entryPoint (listing : List ListingRow) : Option Word := listing.head?.map (fun row => row.address)

end Sys2Proof.Machine
end

