-- ==== Sys2Proof/Machine/Session.lean ====
section
/-! DEFINITION. The host's operations between runs: Execute on source text and on blocks (40_engine.md R171, R172, R178;
47_block_mode.md R402), single-instruction execution (R181), Reset (70_reset_and_hazards.md R480). Assemble is in
Assembler.lean and the metadata query in Table.lean. -/

namespace Sys2Proof.Machine

/-- The result of a run (R178): the final register file, the flags, and memory at each address in `touched`; the cursor
in place of `pc` in block mode (R405). -/
structure Snapshot where
  r : Regs
  pc : Word
  sp : Word
  f : Flags
  touched : List Host.Cell
  cursor : Option (Text × Nat)
  deriving DecidableEq, Repr

/-- The snapshot of a state. -/
def snapshot (s : State) : Snapshot :=
  { r := s.r, pc := s.pc, sp := s.sp, f := s.f, touched := s.touched.map (fun a => (a, s.byteAt a)),
    cursor := s.block.map (fun b => (b.cur, b.idx)) }

/-- How a run ended (R177), with the session's state: `halted`, a fault with the state before the faulting step, or one
of two ends that no run started by this file has: no meaning for a step, and fuel that ran out. -/
inductive RunEnd where
  | success (s : State)
  | failure (k : Fault) (s : State)
  | refused (w : Refusal) (s : State)
  | unfinished (s : State)
  deriving DecidableEq, Repr

/-- `run(s): while not s.halted: step(s)` (R180). A faulting step changed nothing but `steps` (R460). -/
def runLoop : Nat → State → RunEnd
  | 0, s => if s.halted then .success s else .unfinished s
  | n + 1, s =>
    if s.halted then .success s
    else
      match step s with
      | .next t => runLoop n t
      | .fault k => .failure k (countStep s)
      | .refused w => .refused w s

/-- A run from a started state: the budget bounds it by `STEP_LIMIT + 1` steps (R173, R177); at its end the Call Stack
is discarded (R36, R461). -/
def runToEnd (s : State) : RunEnd :=
  match runLoop (s.cfg.stepLimit + 1) s with
  | .success t => .success (endRun t)
  | .failure k t => .failure k (endRun t)
  | .refused w t => .refused w (endRun t)
  | .unfinished t => .unfinished (endRun t)

/-- The error record of a run fault (R431): of its fields only `kind` is normative (log entry 18). -/
structure RunError where
  kind : Fault
  mnemonic : Text
  operands : Text
  lineNo : Nat
  lineText : Text
  position : Place
  hint : Text
  deriving DecidableEq, Repr

/-- The listing row that names the instruction at an address. DESIGN CHOICE (log entry 18): where two rows have one address
(35_assembler.md R155: the later byte stays), the later row, whose bytes are the ones in memory. -/
def rowAt (listing : List ListingRow) (w : Word) : Option ListingRow :=
  (listing.filter (fun row => row.address == w)).getLast?

/-- A block line as text (R400): the mnemonic, a blank and the operand string, or the mnemonic alone. -/
def lineText (line : Line) : Text :=
  if line.operands = [] then line.mnemonic else line.mnemonic ++ ' ' :: line.operands

/-- The record of a fault in a state. DESIGN CHOICE (log entry 18): in linear mode the instruction and the source line are
those of the listing row at `pc`, even where a store has changed its bytes, and are empty, with line number 0, where no row
stands there; in block mode, whose lines have no source line number (R400), the line is the one at the cursor, empty past
the end of its block, and its number is its place in the block counted from 1; R431 gives a block-mode fault the position
`(block, index)` and a validator error its operand position, and of a validator error in block mode the record holds the
first alone. -/
def runErrorOf (k : Fault) (s : State) : RunError :=
  match s.block with
  | some b =>
    let line := ((blockLines b b.cur)[b.idx]?).getD { mnemonic := [], operands := [] }
    { kind := k, mnemonic := line.mnemonic, operands := line.operands, lineNo := b.idx + 1, lineText := lineText line,
      position := .cursor b.cur b.idx, hint := Config.hintText line.mnemonic (b.idx + 1) }
  | none =>
    match rowAt s.listing s.pc with
    | some row => { kind := k, mnemonic := row.mnemonic, operands := row.operands, lineNo := row.lineNo,
                    lineText := row.lineText, position := .pc s.pc, hint := Config.hintText row.mnemonic row.lineNo }
    | none => { kind := k, mnemonic := [], operands := [], lineNo := 0, lineText := [], position := .pc s.pc,
                hint := Config.hintText [] 0 }

/-- What Execute returns (R171, R178): a snapshot; a failure with its record and the snapshot; an assembly failure; or
the two ends no run has. The session's state stands beside it. -/
inductive ExecuteResult where
  | success (x : Snapshot)
  | failure (e : RunError) (x : Snapshot)
  | assemblyFailure (e : AsmError)
  | refused (w : Refusal)
  | unfinished
  deriving DecidableEq, Repr

/-- The returned value of a run's end. -/
def resultOf : RunEnd → State × ExecuteResult
  | .success s => (s, .success (snapshot s))
  | .failure k s => (s, .failure (runErrorOf k s) (snapshot s))
  | .refused w s => (s, .refused w)
  | .unfinished s => (s, .unfinished)

/-- Execute on the program that the last Assemble installed (R172): from the first listing row; an empty listing ends
at once with `MissingReturn`. DESIGN CHOICE (log entry 23): so it does under `FETCH_PRESENCE = all` too, where R172 says it
and 60_exceptions.md R441 says it is never raised; the `pc` it records is the session's. It does not reset (R482). -/
def runProgram (s : State) : RunEnd :=
  match entryPoint s.listing with
  | some entry => runToEnd (startLinear s entry)
  | none => .failure (.missingReturn s.pc) (startLinear s s.pc)

/-- What Execute on source text gives back: the session's state, the warnings of its Assemble, and the result.
DESIGN CHOICE (log entry 34): R463 returns the warnings beside a successful result and R171's output names none; they stand
beside the result of every run that an Assemble started, and an Assemble that failed has none. -/
structure Executed where
  state : State
  warnings : List (Text × Nat)
  result : ExecuteResult
  deriving DecidableEq, Repr

/-- Execute on source text (R171): Assemble, and on success one run. An assembly error runs nothing and changes
nothing. -/
def executeSource (s : State) (src : Text) : Executed :=
  match assemble s src with
  | .error e => { state := s, warnings := [], result := .assemblyFailure e }
  | .ok (t, x) => { state := (resultOf (runProgram t)).1, warnings := x.warnings, result := (resultOf (runProgram t)).2 }

/-- Execute on a pre-assembled block structure (R171, R402). -/
def executeBlocks (s : State) (blocks : List (Text × List Line)) (first : Text) : State × ExecuteResult :=
  resultOf (runToEnd (startBlock s blocks first))

/-- The Reset operation of the interface (R480): the reset state and its snapshot. -/
def resetSession (s : State) : State × Snapshot := (resetOp s, snapshot (resetOp s))

/-- Single-instruction execution (R181, D43): one instruction as text, validated as in assembly against the session's
Label Table, and its rule applied with no `pc`, listing or presence check. The reset instruction needs its mnemonic alone,
since nothing is encoded (R389). A Branch instruction is refused by name: the spec leaves it undefined (U13). DESIGN CHOICE
(log entry 24): an error is given as its kind with the values R432 records, as a step gives it, without the other fields of
the record of R431 (a validator error's operand position, the hint); `validate` on the same text gives the position. -/
def executeSingle (s : State) (word ops : Text) : Host.Outcome State Fault Refusal :=
  match checkLine s.cfg word ops with
  | .error e => .fault e.kind
  | .ok .reset => .next (resetInstruction s)
  | .ok c =>
    match resolve s.cfg s.labels c with
    | .error e => .fault e.kind
    | .ok i => if Instr.category i = .branch then .refused .singleBranch else exec i s

end Sys2Proof.Machine
end

