-- ==== Sys2Proof/Safety.lean ====
section
/-! DEFINITION. What counts as a good state and a safe change, in the terms the statements use: the invariant that
every step keeps, the frame of an instruction (what it may write), and the flags of a result. -/

namespace Sys2Proof.Machine

/-! ### The invariant -/

/-- A good state: memory and ports in their canonical form (10_state.md R32, R33), `istart` and `touched` sets of 16-bit
addresses (R41, R42), a Call Stack within `CALL_DEPTH_MAX` in either mode (R36, R37), and a step counter within
`STEP_LIMIT` (R173). -/
abbrev State.Inv (s : State) : Prop :=
  Memory.wf s.mem = true
    ∧ Ports.wf s.cfg.resetPort s.ports = true
    ∧ addrsWf s.istart = true
    ∧ addrsWf s.touched = true
    ∧ s.callstack.length ≤ s.cfg.callDepthMax
    ∧ (s.block.all fun b => decide (b.callstack.length ≤ s.cfg.callDepthMax)) = true
    ∧ s.steps ≤ s.cfg.stepLimit

/-! ### Frames -/

/-- What an instruction may write. A list names the registers, memory addresses or ports; a Bool says whether the
field may change. Nothing else of the state is in it, so nothing else may change. -/
structure Writes where
  regs : List Reg := []
  mem : List Nat := []
  ports : List Byte := []
  pc : Bool := false
  sp : Bool := false
  flags : Bool := false
  calls : Bool := false
  halted : Bool := false
  deriving DecidableEq, Repr

/-- `t` differs from `s` at most in what `w` names: every other register, every byte of memory outside `w.mem` and every
other port reads as before; `touched` gains exactly `w.mem` (10_state.md R42), and is the same list where that is empty;
`pc`, `sp`, the flags, the Call Stack and `halted` are kept unless named; the rest of the session is kept. -/
def Only (w : Writes) (s t : State) : Prop :=
  (∀ x, x ∉ w.regs → t.reg x = s.reg x)
    ∧ (∀ a, a ∉ w.mem → t.byteAt a = s.byteAt a)
    ∧ (∀ a, a ∈ t.touched ↔ a ∈ s.touched ∨ a ∈ w.mem)
    ∧ (∀ p, p ∉ w.ports → t.portRead p = s.portRead p)
    ∧ (w.pc = false → t.pc = s.pc)
    ∧ (w.sp = false → t.sp = s.sp)
    ∧ (w.flags = false → t.f = s.f)
    ∧ (w.calls = false → t.callstack = s.callstack)
    ∧ (w.halted = false → t.halted = s.halted)
    ∧ t.steps = s.steps ∧ t.istart = s.istart ∧ t.labels = s.labels ∧ t.listing = s.listing ∧ t.block = s.block
    ∧ t.cfg = s.cfg
    ∧ (w.mem = [] → t.touched = s.touched)

/-- What writing an operand of {B, D, H, SP} writes (30_encoding.md R94, 10_state.md R22). -/
def PairSp.writes : PairSp → Writes
  | .pair p => { regs := [Pair.hiReg p, Pair.loReg p] }
  | .sp => { sp := true }

/-- The address in HL, which `M` names (10_state.md R23). -/
def State.hlAddr (s : State) : Nat := (s.pair .h).toNat

/-! ### Flags of a result -/

/-- How many of the eight bits of a byte are 1. -/
def onesOf (v : Byte) : Nat := (List.range 8).countP (fun k => v.getLsbD k)

/-- Zero, Sign and Parity say what 10_state.md R27 says of a result. -/
def ResultFlags (f : Flags) (res : Byte) : Prop :=
  (f.z = true ↔ res = 0) ∧ f.s = res.getLsbD 7 ∧ (f.p = true ↔ onesOf res % 2 = 0)

/-- AuxiliaryCarry after a subtraction: 1 iff the low nibble borrows, under polarity `borrow`; 1 iff it does not, under
`carry` (42_arithmetic.md R232). -/
def AuxAfterSub (pol : AcPolarity) (ac : Bool) (borrows : Prop) : Prop :=
  match pol with
  | .borrow => ac = true ↔ borrows
  | .carry => ac = true ↔ ¬ borrows

/-- The two-digit decimal coding of a number below 100. -/
def bcd (n : Nat) : Byte := BitVec.ofNat 8 (n / 10 * 16 + n % 10)

/-! ### Classes of instructions -/

/-- The CALL class of 10_state.md R36: `CALL`, `Ccc`, `RST`. -/
def isCallClass : Instr → Bool
  | .call _ | .cnz _ | .cz _ | .cnc _ | .cc _ | .cpo _ | .cpe _ | .cp _ | .cm _ | .rst _ => true
  | _ => false

/-- The RET class of 10_state.md R36: `RET`, `Rcc`. -/
def isRetClass : Instr → Bool
  | .ret | .rnz | .rz | .rnc | .rc | .rpo | .rpe | .rp | .rm => true
  | _ => false

/-- The instructions with a row in the flag table of 10_state.md R28, but for the reset instruction. -/
def writesFlags : Instr → Bool
  | .add _ | .adc _ | .adi _ | .aci _ | .sub _ | .sbb _ | .sui _ | .sbi _ | .cmp _ | .cpi _ => true
  | .inr _ | .dcr _ | .ana _ | .ani _ | .xra _ | .xri _ | .ora _ | .ori _ | .daa => true
  | .rlc | .rrc | .ral | .rar | .dad _ | .stc | .cmc => true
  | .pop rp => decide (rp = .psw)
  | _ => false

/-- The instructions that write Carry (10_state.md R28), but for the reset instruction. -/
def writesCarry : Instr → Bool
  | .inr _ | .dcr _ => false
  | i => writesFlags i

/-- The writers of `sp` (10_state.md R25), but for the reset instruction. -/
def writesSp : Instr → Bool
  | .lxi rp _ | .inx rp | .dcx rp => decide (rp = .sp)
  | .sphl | .push _ | .pop _ => true
  | _ => false

/-- The instructions that store to memory, but for the reset instruction. -/
def storesToMemory : Instr → Bool
  | .mov dst _ | .mvi dst _ | .inr dst | .dcr dst => decide (dst = .m)
  | .sta _ | .shld _ | .stax _ | .push _ | .xthl => true
  | .lxi _ _ | .lda _ | .lhld _ | .ldax _ | .xchg => false
  | .add _ | .adi _ | .adc _ | .aci _ | .sub _ | .sui _ | .sbb _ | .sbi _ => false
  | .inx _ | .dcx _ | .dad _ | .daa => false
  | .ana _ | .ani _ | .xra _ | .xri _ | .ora _ | .ori _ | .cmp _ | .cpi _ => false
  | .rlc | .rrc | .ral | .rar | .cma | .cmc | .stc => false
  | .jmp _ | .jnz _ | .jz _ | .jnc _ | .jc _ | .jpo _ | .jpe _ | .jp _ | .jm _ => false
  | .call _ | .cnz _ | .cz _ | .cnc _ | .cc _ | .cpo _ | .cpe _ | .cp _ | .cm _ => false
  | .ret | .rnz | .rz | .rnc | .rc | .rpo | .rpe | .rp | .rm | .pchl | .rst _ => false
  | .pop _ | .sphl | .in_ _ | .out _ | .hlt | .nop | .ei | .di | .rim | .sim | .undefined _ => false

/-- `undefined` is the reset instruction wherever it does anything but raise (46_machine_control.md R389, R390). -/
def isUndefined : Instr → Bool
  | .undefined _ => true
  | _ => false

end Sys2Proof.Machine
end

