-- ==== Sys2Proof/Certificates/Slice0/Obligations.lean ====
section
/-! DEFINITION. The statements for the provers. `Only w s t` (Safety.lean) is the frame: `t` differs from `s` at most in
what `w` names. A meaning is the instruction's own effect; the default advance of `pc` is the engine's (log entry 11). -/

section
open Sys2Proof Sys2Proof.Machine

/-! ### Encoding -/

/-- 30_encoding.md R103: decoding an encoded instruction gives back the mnemonic and operands, for every well-formed
instruction with every operand, whatever bytes follow it. -/
def Obligations.DecodeEncodeRoundTrip : Prop :=
  ∀ (i : Instr) (rest : List Byte), i.wf = true → decode (encode i ++ rest) = .ok (i, rest)

/-- 30_encoding.md R98, R101, R103: every first byte decodes to a well-formed instruction whose length that byte alone
decides, and encoding it gives back the byte and the operand bytes it used. -/
def Obligations.EncodeDecodeRoundTrip : Prop :=
  ∀ op b1 b2 : Byte,
    (decodeInstr op b1 b2).wf = true
      ∧ (decodeInstr op b1 b2).length = opLength op
      ∧ encode (decodeInstr op b1 b2) = [op, b1, b2].take (opLength op)

/-- Words written out from 30_encoding.md R91 to R98 decode to the instructions they stand for, one from each family. -/
def Obligations.TableWordsDecode : Prop :=
  decodeTableWord 8 0b01000001 = some (.mov (.reg .b) (.reg .c))
    ∧ decodeTableWord 24 0x200021 = some (.lxi (.pair .h) 0x2000)
    ∧ decodeTableWord 8 0b10000110 = some (.add .m)
    ∧ decodeTableWord 16 0x0FE6 = some (.ani 0x0F)
    ∧ decodeTableWord 24 0x2000C2 = some (.jnz 0x2000)
    ∧ decodeTableWord 8 0b11101111 = some (.rst 5)
    ∧ decodeTableWord 8 0b11110101 = some (.push .psw)
    ∧ decodeTableWord 16 0x10DB = some (.in_ 0x10)
    ∧ decodeTableWord 8 0x76 = some .hlt
    ∧ decodeTableWord 8 0xCB = some (.undefined 0xCB)

/-- 30_encoding.md R103, 35_assembler.md R130 to R137 (property Q3 of 95_test_vectors.md): the validator reads an
instruction's own mnemonic and operand text back as that instruction, whatever the Label Table, where the setting has the
mnemonic and the memory map is the whole range (the spec's default). -/
def Obligations.ValidatorReadsOperandText : Prop :=
  ∀ (cfg : Params) (labels : List (Text × Nat)) (i : Instr),
    i.wf = true → isUndefined i = false →
    (i ∈ [Instr.ei, Instr.di, Instr.rim, Instr.sim] → cfg.interruptOps = .nop) →
    cfg.memMapLo = 0x0000 → cfg.memMapHi = 0xFFFF →
    validate cfg (Machine.Instr.mnemonic i) (Machine.Instr.operandText i) labels = .ok i

/-! ### The engine -/

/-- 40_engine.md R175, R176, R180: a step of a run in linear mode, where an instruction is present and the budget is not
used up, runs the instruction that the bytes at `pc` decode to, with the step counted, and then makes the default advance
unless the instruction writes `pc` itself. -/
def Obligations.StepRunsDecodedInstruction : Prop :=
  ∀ (s : State) (i : Instr) (rest : List Byte),
    s.halted = false → s.block = none → s.steps < s.cfg.stepLimit → present s s.pc = true →
    decode [s.byteAt s.pc.toNat, s.byteAt (s.pc.toNat + 1), s.byteAt (s.pc.toNat + 2)] = .ok (i, rest) →
    s.pc.toNat + i.length ≤ 65536 →
    step s =
      match exec i { s with steps := s.steps + 1 } with
      | .next t => .next (if writesPc i then t else { t with pc := t.pc + BitVec.ofNat 16 i.length })
      | .fault k => .fault k
      | .refused w => .refused w

/-- 40_engine.md R176: after a step that ran an instruction with no rule for `pc`, `pc` is past that instruction, modulo
65536, and the step has been counted. -/
def Obligations.StepAdvancesPc : Prop :=
  ∀ (s t : State) (i : Instr),
    s.block = none → fetchChecked (countStep s) = .ok i → writesPc i = false → step s = .next t →
    t.pc = s.pc + BitVec.ofNat 16 i.length ∧ t.steps = s.steps + 1

/-- 40_engine.md R179: the checks of a linear step before the instruction's own, in their order: the budget, then
presence, then the table lookup, then the operand bytes. -/
def Obligations.FetchFaultsInOrder : Prop :=
  ∀ s : State, s.halted = false → s.block = none →
    (s.cfg.stepLimit ≤ s.steps → step s = .fault (.stepLimitExceeded (.pc s.pc)))
      ∧ (s.steps < s.cfg.stepLimit → present s s.pc = false → step s = .fault (.missingReturn s.pc))
      ∧ (s.steps < s.cfg.stepLimit → present s s.pc = true → s.byteAt s.pc.toNat ∈ undefinedBytes →
          s.cfg.resetOpcode ≠ some (s.byteAt s.pc.toNat) →
          step s = .fault (.unknownInstruction (.byte s.pc (s.byteAt s.pc.toNat))))
      ∧ (s.steps < s.cfg.stepLimit → present s s.pc = true → s.cfg.addrWrap = .fault →
          65536 < s.pc.toNat + opLength (s.byteAt s.pc.toNat) →
          step s = .fault (.invalidMemoryAddress (.address 65536)))

/-- Model's choice, log entry 8: a run that has ended takes no further step (40_engine.md R177), which the step says by
a refusal of its own name; only a halted state is refused. -/
def Obligations.OnlyHaltedIsRefused : Prop :=
  ∀ (s : State) (w : Refusal), step s = .refused w ↔ s.halted = true ∧ w = .runEnded

/-- 40_engine.md R173, R177: every run is finite. A run that has not ended takes at most as many steps as its budget has
left, and then either it has halted or its next step is a fault. -/
def Obligations.EveryRunEnds : Prop :=
  ∀ s : State, s.halted = false →
    ∃ (n : Nat) (t : State),
      n ≤ s.cfg.stepLimit - s.steps ∧ Sys2Proof.core.run n s = .next t
        ∧ (t.halted = true ∨ ∃ k, step t = .fault k)

/-- 60_exceptions.md R460, R461, log entry 9: a step that raises ends the run with the state the step began in, but for
the step counter; a failed Assemble leaves the whole state and runs nothing. That `executeSource` then returns no warning is
the model's choice (log entry 34; R463 speaks of a successful result only). -/
def Obligations.FaultsArePrecise : Prop :=
  (∀ (s : State) (k : Fault) (n : Nat), s.halted = false → step s = .fault k →
      runLoop (n + 1) s = .failure k { s with steps := s.steps + 1 })
    ∧ (∀ (s : State) (src : Text) (e : AsmError), assemble s src = .error e →
        executeSource s src = { state := s, warnings := [], result := .assemblyFailure e })

/-- Every step, in either mode, keeps the invariant: canonical memory and ports, address sets, a bounded Call Stack and
a step counter within the budget (10_state.md R32, R33, R36, R37, R41, R42; 40_engine.md R173). -/
def Obligations.StepKeepsInv : Prop :=
  ∀ s t : State, s.Inv → step s = .next t → t.Inv

/-- The reset state has the invariant, for every setting of the parameters. -/
def Obligations.ResetHasInv : Prop :=
  State.reset.Inv ∧ ∀ s : State, (resetOp s).Inv

/-- 70_reset_and_hazards.md R482 (b): no step, a reset instruction's included, changes the parameters. -/
def Obligations.StepKeepsParameters : Prop :=
  ∀ s t : State, step s = .next t → t.cfg = s.cfg

/-! ### Reset -/

/-- 70_reset_and_hazards.md R481: reset is idempotent and depends on the parameters alone. -/
def Obligations.ResetIsConstant : Prop :=
  (∀ s : State, resetOp (resetOp s) = resetOp s) ∧ (∀ s t : State, s.cfg = t.cfg → resetOp s = resetOp t)
    ∧ (∀ s : State, resetOp s = State.initial s.cfg)

/-- 70_reset_and_hazards.md R480: what the reset operation leaves, from any state and under any parameters. -/
def Obligations.ResetLeaves : Prop :=
  ∀ s : State,
    (∀ x, (resetOp s).reg x = s.cfg.resetReg8) ∧ (resetOp s).pc = s.cfg.resetPc ∧ (resetOp s).sp = s.cfg.resetSp
      ∧ (resetOp s).f = s.cfg.resetFlags ∧ (∀ a, (resetOp s).byteAt a = 0x00)
      ∧ (∀ p, (resetOp s).portRead p = s.cfg.resetPort) ∧ (resetOp s).callstack = [] ∧ (resetOp s).steps = 0
      ∧ (resetOp s).halted = false ∧ (resetOp s).istart = [] ∧ (resetOp s).touched = [] ∧ (resetOp s).labels = []
      ∧ (resetOp s).listing = []

/-- 46_machine_control.md R389 with log entry 6: under `RESET_OPCODE` the byte it names resets the machine, and the run
has then ended. -/
def Obligations.ResetInstructionResets : Prop :=
  ∀ (s : State) (op : Byte), s.cfg.resetOpcode = some op →
    exec (.undefined op) s = .next { resetOp s with halted := true }

/-! ### What the instructions share -/

/-- 10_state.md R36: no instruction but the CALL class and the RET class changes the Call Stack; a call adds at most one
return point and a return takes at most one. -/
def Obligations.CallStackWriters : Prop :=
  ∀ (i : Instr) (s t : State), isUndefined i = false → exec i s = .next t →
    (isCallClass i = false → isRetClass i = false → t.callstack = s.callstack)
      ∧ (isCallClass i = true → t.callstack = s.callstack ∨ ∃ x, t.callstack = x :: s.callstack)
      ∧ (isRetClass i = true → t.callstack = s.callstack ∨ ∃ x, s.callstack = x :: t.callstack)

/-- 10_state.md R28: an instruction that is not in the flag table writes no flag, and INR and DCR keep Carry. -/
def Obligations.FlagWriters : Prop :=
  ∀ (i : Instr) (s t : State), isUndefined i = false → exec i s = .next t →
    (writesFlags i = false → t.f = s.f) ∧ (writesCarry i = false → t.f.cy = s.f.cy)

/-- 10_state.md R33: only `OUT` writes a port, and only the port it names. -/
def Obligations.PortWriters : Prop :=
  ∀ (i : Instr) (s t : State) (p : Byte), isUndefined i = false → exec i s = .next t → i ≠ .out p →
    t.portRead p = s.portRead p

/-- 10_state.md R25: `sp` is written only by `LXI SP`, `INX SP`, `DCX SP`, `SPHL`, `PUSH`, `POP`. -/
def Obligations.SpWriters : Prop :=
  ∀ (i : Instr) (s t : State), isUndefined i = false → exec i s = .next t → writesSp i = false → t.sp = s.sp

/-- 20_memory.md R60, R64 and 10_state.md R42: only the storing instructions change a byte of memory or `touched`;
whatever byte changes is in `touched` afterwards, and nothing leaves `touched`. -/
def Obligations.MemoryWriters : Prop :=
  ∀ (i : Instr) (s t : State), isUndefined i = false → exec i s = .next t →
    (storesToMemory i = false → (∀ a, t.byteAt a = s.byteAt a) ∧ t.touched = s.touched)
      ∧ (∀ a, t.byteAt a ≠ s.byteAt a → a ∈ t.touched) ∧ (∀ a, a ∈ s.touched → a ∈ t.touched)

/-- 40_engine.md R176 and 10_state.md R39, R41: only the Branch instructions write `pc` themselves; no instruction
changes `steps`, `istart`, the Label Table, the listing, the block run or the parameters, and only `HLT` halts. -/
def Obligations.PcAndSessionWriters : Prop :=
  ∀ (i : Instr) (s t : State), isUndefined i = false → exec i s = .next t →
    (writesPc i = false → t.pc = s.pc) ∧ (i ≠ .hlt → t.halted = s.halted) ∧ t.steps = s.steps ∧ t.istart = s.istart
      ∧ t.labels = s.labels ∧ t.listing = s.listing ∧ t.block = s.block ∧ t.cfg = s.cfg

/-! ### Registers, memory, the Call Stack: the primitives -/

/-- 10_state.md R22: a pair's value is high*256+low, a write to a pair sets both halves and nothing else, and a write to
a half shows in the pair. -/
def Obligations.PairsAreViews : Prop :=
  ∀ (s : State) (p : Pair),
    (s.pair p).toNat = (s.reg (Pair.hiReg p)).toNat * 256 + (s.reg (Pair.loReg p)).toNat
      ∧ (∀ v : Word, (s.setPair p v).pair p = v
          ∧ ((s.setPair p v).reg (Pair.hiReg p)).toNat = v.toNat / 256
          ∧ ((s.setPair p v).reg (Pair.loReg p)).toNat = v.toNat % 256
          ∧ Only { regs := [Pair.hiReg p, Pair.loReg p] } s (s.setPair p v))
      ∧ (∀ b : Byte, ((s.setReg (Pair.hiReg p) b).pair p).toNat = b.toNat * 256 + (s.reg (Pair.loReg p)).toNat
          ∧ ((s.setReg (Pair.loReg p) b).pair p).toNat = (s.reg (Pair.hiReg p)).toNat * 256 + b.toNat)

/-- 20_memory.md R63 to R65: a 16-bit access within range reads and writes the low byte at the lower address; an access
that leaves 0..65535 raises `InvalidMemoryAddress` with the first failing address, before anything is written. -/
def Obligations.WordAccess : Prop :=
  ∀ (s : State) (a : Int) (v : Word),
    (0 ≤ a → a + 1 < 65536 →
        (memRead2 s a = .ok (s.byteAt (a + 1).toNat ++ s.byteAt a.toNat))
          ∧ ∃ t, memWrite2 s a v = .ok t ∧ (t.byteAt a.toNat).toNat = v.toNat % 256
              ∧ (t.byteAt (a + 1).toNat).toNat = v.toNat / 256 ∧ memRead2 t a = .ok v
              ∧ Only { mem := [a.toNat, (a + 1).toNat] } s t)
      ∧ (s.cfg.addrWrap = .fault → (a < 0 ∨ 65536 ≤ a) →
          memRead2 s a = .error (.invalidMemoryAddress (.address a))
            ∧ memWrite2 s a v = .error (.invalidMemoryAddress (.address a)))
      ∧ (s.cfg.addrWrap = .fault → a = 65535 →
          memRead2 s a = .error (.invalidMemoryAddress (.address 65536))
            ∧ memWrite2 s a v = .error (.invalidMemoryAddress (.address 65536)))

/-- 20_memory.md R61 to R63: the two cells of a 16-bit access at any integer address: the address and the next one where
both are within 0..65535; both modulo 65536 under `ADDR_WRAP = wrap` (log entry 7); none, outside, under
`ADDR_WRAP = fault`. -/
def Obligations.SlotsOfAnAccess : Prop :=
  ∀ (s : State) (a : Int),
    (0 ≤ a → a + 1 < 65536 → slots s a = .ok (a.toNat, a.toNat + 1))
      ∧ (s.cfg.addrWrap = .wrap → slots s a = .ok ((a % 65536).toNat, ((a + 1) % 65536).toNat))
      ∧ (s.cfg.addrWrap = .fault → ∀ x y, slots s a = .ok (x, y) → 0 ≤ a ∧ a + 1 < 65536)

/-- 10_state.md R37, R38: a call pushes its return point unless the Call Stack holds `CALL_DEPTH_MAX`; a return pops the
top unless the Call Stack is empty. -/
def Obligations.CallPushAndPop : Prop :=
  ∀ (s : State) (x : Word),
    (s.callstack.length < s.cfg.callDepthMax → callPush s x = .ok { s with callstack := x :: s.callstack })
      ∧ (s.cfg.callDepthMax ≤ s.callstack.length → callPush s x = .error (.stackOverflow (.pc s.pc)))
      ∧ (s.callstack = [] → callPop s = .error (.stackUnderflow (.pc s.pc)))
      ∧ (∀ rest, s.callstack = x :: rest → callPop s = .ok (x, { s with callstack := rest }))

/-! ### Data transfer -/

/-- 41_data_transfer.md R201 to R205: `MOV` and `MVI`, to a register and to `M`. The source is read, and HL addresses
`M`, before the write. -/
def Obligations.MovAndMvi : Prop :=
  ∀ (s : State) (dst : Reg) (src : RegM) (r : Reg) (v : Byte),
    (∃ t, exec (.mov (.reg dst) src) s = .next t
        ∧ t.reg dst = (match src with | .reg x => s.reg x | .m => s.byteAt s.hlAddr) ∧ Only { regs := [dst] } s t)
      ∧ (∃ t, exec (.mov .m (.reg r)) s = .next t ∧ t.byteAt s.hlAddr = s.reg r ∧ Only { mem := [s.hlAddr] } s t)
      ∧ (∃ t, exec (.mvi (.reg dst) v) s = .next t ∧ t.reg dst = v ∧ Only { regs := [dst] } s t)
      ∧ (∃ t, exec (.mvi .m v) s = .next t ∧ t.byteAt s.hlAddr = v ∧ Only { mem := [s.hlAddr] } s t)

/-- 41_data_transfer.md R206: `LXI` to a pair, both halves, or to `sp`. -/
def Obligations.LxiLoads : Prop :=
  ∀ (s : State) (rp : PairSp) (w : Word),
    ∃ t, exec (.lxi rp w) s = .next t ∧ t.readPairSp rp = w ∧ Only (PairSp.writes rp) s t

/-- 41_data_transfer.md R207, R208, R211, R212: `LDA`, `STA`, `LDAX`, `STAX`. -/
def Obligations.AccumulatorLoadsAndStores : Prop :=
  ∀ (s : State) (w : Word) (rp : PairBD),
    (∃ t, exec (.lda w) s = .next t ∧ t.reg .a = s.byteAt w.toNat ∧ Only { regs := [.a] } s t)
      ∧ (∃ t, exec (.sta w) s = .next t ∧ t.byteAt w.toNat = s.reg .a ∧ Only { mem := [w.toNat] } s t)
      ∧ (∃ t, exec (.ldax rp) s = .next t ∧ t.reg .a = s.byteAt (s.readPairBD rp).toNat
          ∧ Only { regs := [.a] } s t)
      ∧ (∃ t, exec (.stax rp) s = .next t ∧ t.byteAt (s.readPairBD rp).toNat = s.reg .a
          ∧ Only { mem := [(s.readPairBD rp).toNat] } s t)

/-- 41_data_transfer.md R209, R210: `LHLD` and `SHLD`, L at the lower address, wherever `slots` gives both addresses
(always, but at FFFFH under `ADDR_WRAP = fault`). -/
def Obligations.LhldAndShld : Prop :=
  ∀ (s : State) (w : Word) (x y : Nat), slots s w.toNat = .ok (x, y) →
    (∃ t, exec (.lhld w) s = .next t ∧ t.reg .l = s.byteAt x ∧ t.reg .h = s.byteAt y ∧ Only { regs := [.h, .l] } s t)
      ∧ (∃ t, exec (.shld w) s = .next t ∧ t.byteAt x = s.reg .l ∧ t.byteAt y = s.reg .h
          ∧ Only { mem := [x, y] } s t)

/-- 41_data_transfer.md R213, 45_stack.md R366, 44_branch.md R340: `XCHG` exchanges HL and DE, `SPHL` and `PCHL` copy HL
into `sp` and `pc`. -/
def Obligations.ExchangesAndCopiesOfHl : Prop :=
  ∀ s : State,
    (∃ t, exec .xchg s = .next t ∧ t.reg .h = s.reg .d ∧ t.reg .l = s.reg .e ∧ t.reg .d = s.reg .h
        ∧ t.reg .e = s.reg .l ∧ Only { regs := [.d, .e, .h, .l] } s t)
      ∧ (∃ t, exec .sphl s = .next t ∧ t.sp = s.pair .h ∧ Only { sp := true } s t)
      ∧ (∃ t, exec .pchl s = .next t ∧ t.pc = s.pair .h ∧ Only { pc := true } s t)

/-! ### Arithmetic -/

/-- 42_arithmetic.md R231, in the eight forms of R233 to R238: `ADD`, `ADI` add the operand to A, `ADC`, `ACI` add Carry
as well, by an unbounded sum; all five flags come from it. -/
def Obligations.AddGroupAdds : Prop :=
  ∀ (s : State) (i : Instr) (v : Byte) (cin : Bool),
    ((∃ src, i = .add src ∧ v = s.readRM src ∧ cin = false) ∨ (i = .adi v ∧ cin = false)
        ∨ (∃ src, i = .adc src ∧ v = s.readRM src ∧ cin = s.f.cy) ∨ (i = .aci v ∧ cin = s.f.cy)) →
    ∃ t, exec i s = .next t
      ∧ (t.reg .a).toNat = ((s.reg .a).toNat + v.toNat + cin.toNat) % 256
      ∧ (t.f.cy = true ↔ 255 < (s.reg .a).toNat + v.toNat + cin.toNat)
      ∧ (t.f.ac = true ↔ 15 < (s.reg .a).toNat % 16 + v.toNat % 16 + cin.toNat)
      ∧ ResultFlags t.f (t.reg .a)
      ∧ Only { regs := [.a], flags := true } s t

/-- 42_arithmetic.md R232, in the forms of R239 to R244: `SUB`, `SUI` subtract the operand from A, `SBB`, `SBI` subtract
Carry as well; Carry is the borrow, AuxiliaryCarry follows `AC_SUB_POLARITY`. -/
def Obligations.SubGroupSubtracts : Prop :=
  ∀ (s : State) (i : Instr) (v : Byte) (bin : Bool),
    ((∃ src, i = .sub src ∧ v = s.readRM src ∧ bin = false) ∨ (i = .sui v ∧ bin = false)
        ∨ (∃ src, i = .sbb src ∧ v = s.readRM src ∧ bin = s.f.cy) ∨ (i = .sbi v ∧ bin = s.f.cy)) →
    ∃ t, exec i s = .next t
      ∧ ((t.reg .a).toNat : Int) = (((s.reg .a).toNat : Int) - v.toNat - bin.toNat) % 256
      ∧ (t.f.cy = true ↔ (s.reg .a).toNat < v.toNat + bin.toNat)
      ∧ AuxAfterSub s.cfg.acSubPolarity t.f.ac ((s.reg .a).toNat % 16 < v.toNat % 16 + bin.toNat)
      ∧ ResultFlags t.f (t.reg .a)
      ∧ Only { regs := [.a], flags := true } s t

/-- 43_logical.md R270, R280 to R282: `CMP` and `CPI` write the flags of the subtraction and nothing else: Zero iff A
equals the operand, Carry iff A is below it, Sign and Parity of the difference. -/
def Obligations.CompareWritesFlags : Prop :=
  ∀ (s : State) (i : Instr) (v : Byte),
    ((∃ src, i = .cmp src ∧ v = s.readRM src) ∨ i = .cpi v) →
    ∃ t, exec i s = .next t
      ∧ (t.f.z = true ↔ s.reg .a = v)
      ∧ (t.f.cy = true ↔ (s.reg .a).toNat < v.toNat)
      ∧ AuxAfterSub s.cfg.acSubPolarity t.f.ac ((s.reg .a).toNat % 16 < v.toNat % 16)
      ∧ ResultFlags t.f (s.reg .a - v)
      ∧ Only { flags := true } s t

/-- 42_arithmetic.md R245 to R248: `INR` and `DCR`, on a register and on `M`: modulo 256, Carry kept. -/
def Obligations.InrAndDcr : Prop :=
  ∀ s : State,
    (∀ x : Reg, ∃ t, exec (.inr (.reg x)) s = .next t ∧ (t.reg x).toNat = ((s.reg x).toNat + 1) % 256
        ∧ (t.f.ac = true ↔ (s.reg x).toNat % 16 = 15) ∧ t.f.cy = s.f.cy ∧ ResultFlags t.f (t.reg x)
        ∧ Only { regs := [x], flags := true } s t)
      ∧ (∃ t, exec (.inr .m) s = .next t ∧ (t.byteAt s.hlAddr).toNat = ((s.byteAt s.hlAddr).toNat + 1) % 256
          ∧ (t.f.ac = true ↔ (s.byteAt s.hlAddr).toNat % 16 = 15) ∧ t.f.cy = s.f.cy
          ∧ ResultFlags t.f (t.byteAt s.hlAddr) ∧ Only { mem := [s.hlAddr], flags := true } s t)
      ∧ (∀ x : Reg, ∃ t, exec (.dcr (.reg x)) s = .next t ∧ (t.reg x).toNat = ((s.reg x).toNat + 255) % 256
          ∧ AuxAfterSub s.cfg.acSubPolarity t.f.ac ((s.reg x).toNat % 16 = 0) ∧ t.f.cy = s.f.cy
          ∧ ResultFlags t.f (t.reg x) ∧ Only { regs := [x], flags := true } s t)
      ∧ (∃ t, exec (.dcr .m) s = .next t ∧ (t.byteAt s.hlAddr).toNat = ((s.byteAt s.hlAddr).toNat + 255) % 256
          ∧ AuxAfterSub s.cfg.acSubPolarity t.f.ac ((s.byteAt s.hlAddr).toNat % 16 = 0) ∧ t.f.cy = s.f.cy
          ∧ ResultFlags t.f (t.byteAt s.hlAddr) ∧ Only { mem := [s.hlAddr], flags := true } s t)

/-- 42_arithmetic.md R249, R250: `INX` and `DCX` on a pair or `sp`, modulo 65536, no flag. -/
def Obligations.InxAndDcx : Prop :=
  ∀ (s : State) (rp : PairSp),
    (∃ t, exec (.inx rp) s = .next t ∧ (t.readPairSp rp).toNat = ((s.readPairSp rp).toNat + 1) % 65536
        ∧ Only (PairSp.writes rp) s t)
      ∧ (∃ t, exec (.dcx rp) s = .next t ∧ (t.readPairSp rp).toNat = ((s.readPairSp rp).toNat + 65535) % 65536
          ∧ Only (PairSp.writes rp) s t)

/-- 42_arithmetic.md R251: `DAD` adds a pair or `sp` to HL; Carry alone is written. -/
def Obligations.DadAdds : Prop :=
  ∀ (s : State) (rp : PairSp),
    ∃ t, exec (.dad rp) s = .next t
      ∧ (t.pair .h).toNat = ((s.pair .h).toNat + (s.readPairSp rp).toNat) % 65536
      ∧ (t.f.cy = true ↔ 65535 < (s.pair .h).toNat + (s.readPairSp rp).toNat)
      ∧ t.f = { s.f with cy := t.f.cy }
      ∧ Only { regs := [.h, .l], flags := true } s t

/-- 42_arithmetic.md R252: `DAA`, by the rule's own two corrections. -/
def Obligations.DaaAdjusts : Prop :=
  ∀ (s : State) (a t u : Nat), a = (s.reg .a).toNat →
    t = (if 9 < a % 16 ∨ s.f.ac = true then a + 6 else a) →
    u = (if 9 < t / 16 ∨ s.f.cy = true then t + 96 else t) →
    ∃ s', exec .daa s = .next s' ∧ (s'.reg .a).toNat = u % 256
      ∧ (s'.f.cy = true ↔ 9 < t / 16 ∨ s.f.cy = true) ∧ (s'.f.ac = true ↔ 10 ≤ a % 16)
      ∧ ResultFlags s'.f (s'.reg .a) ∧ Only { regs := [.a], flags := true } s s'

/-- 42_arithmetic.md R252 with R231: after the addition of two two-digit decimals, with or without a carry in, `DAA`
leaves the two low decimal digits of the sum in A and its hundreds digit in Carry. -/
def Obligations.DaaAfterDecimalAdd : Prop :=
  ∀ (s t : State) (m n : Nat), m < 100 → n < 100 → s.reg .a = bcd m → exec (.aci (bcd n)) s = .next t →
    ∃ u, exec .daa t = .next u ∧ u.reg .a = bcd ((m + n + s.f.cy.toNat) % 100)
      ∧ (u.f.cy = true ↔ 100 ≤ m + n + s.f.cy.toNat)

/-! ### Logical -/

/-- 43_logical.md R270 to R279: the AND, XOR and OR groups, bit by bit; Carry 0, AuxiliaryCarry 1 for AND and 0 for the
others. -/
def Obligations.LogicalGroup : Prop :=
  ∀ (s : State) (v : Byte),
    (∀ i, ((∃ src, i = Instr.ana src ∧ v = s.readRM src) ∨ i = .ani v) →
        ∃ t, exec i s = .next t ∧ (∀ k, (t.reg .a).getLsbD k = ((s.reg .a).getLsbD k && v.getLsbD k))
          ∧ t.f.cy = false ∧ t.f.ac = true ∧ ResultFlags t.f (t.reg .a) ∧ Only { regs := [.a], flags := true } s t)
      ∧ (∀ i, ((∃ src, i = Instr.xra src ∧ v = s.readRM src) ∨ i = .xri v) →
          ∃ t, exec i s = .next t ∧ (∀ k, (t.reg .a).getLsbD k = ((s.reg .a).getLsbD k != v.getLsbD k))
            ∧ t.f.cy = false ∧ t.f.ac = false ∧ ResultFlags t.f (t.reg .a)
            ∧ Only { regs := [.a], flags := true } s t)
      ∧ (∀ i, ((∃ src, i = Instr.ora src ∧ v = s.readRM src) ∨ i = .ori v) →
          ∃ t, exec i s = .next t ∧ (∀ k, (t.reg .a).getLsbD k = ((s.reg .a).getLsbD k || v.getLsbD k))
            ∧ t.f.cy = false ∧ t.f.ac = false ∧ ResultFlags t.f (t.reg .a)
            ∧ Only { regs := [.a], flags := true } s t)

/-- 43_logical.md R283 to R286: the rotates, bit by bit; Carry takes the bit rotated out and no other flag changes. -/
def Obligations.Rotates : Prop :=
  ∀ s : State,
    (∃ t, exec .rlc s = .next t ∧ (∀ k < 7, (t.reg .a).getLsbD (k + 1) = (s.reg .a).getLsbD k)
        ∧ (t.reg .a).getLsbD 0 = (s.reg .a).getLsbD 7 ∧ t.f = { s.f with cy := (s.reg .a).getLsbD 7 }
        ∧ Only { regs := [.a], flags := true } s t)
      ∧ (∃ t, exec .rrc s = .next t ∧ (∀ k < 7, (t.reg .a).getLsbD k = (s.reg .a).getLsbD (k + 1))
          ∧ (t.reg .a).getLsbD 7 = (s.reg .a).getLsbD 0 ∧ t.f = { s.f with cy := (s.reg .a).getLsbD 0 }
          ∧ Only { regs := [.a], flags := true } s t)
      ∧ (∃ t, exec .ral s = .next t ∧ (∀ k < 7, (t.reg .a).getLsbD (k + 1) = (s.reg .a).getLsbD k)
          ∧ (t.reg .a).getLsbD 0 = s.f.cy ∧ t.f = { s.f with cy := (s.reg .a).getLsbD 7 }
          ∧ Only { regs := [.a], flags := true } s t)
      ∧ (∃ t, exec .rar s = .next t ∧ (∀ k < 7, (t.reg .a).getLsbD k = (s.reg .a).getLsbD (k + 1))
          ∧ (t.reg .a).getLsbD 7 = s.f.cy ∧ t.f = { s.f with cy := (s.reg .a).getLsbD 0 }
          ∧ Only { regs := [.a], flags := true } s t)

/-- 43_logical.md R287 to R289: `CMA` inverts every bit of A and writes no flag; `CMC` and `STC` write Carry alone. -/
def Obligations.ComplementsAndSetCarry : Prop :=
  ∀ s : State,
    (∃ t, exec .cma s = .next t ∧ (∀ k < 8, (t.reg .a).getLsbD k = !(s.reg .a).getLsbD k)
        ∧ Only { regs := [.a] } s t)
      ∧ (∃ t, exec .cmc s = .next t ∧ t.f = { s.f with cy := !s.f.cy } ∧ Only { flags := true } s t)
      ∧ (∃ t, exec .stc s = .next t ∧ t.f = { s.f with cy := true } ∧ Only { flags := true } s t)

/-! ### Branch -/

/-- 44_branch.md R311 to R320: `JMP` and the eight conditional jumps: `pc` is the target when the condition holds, the
next instruction's address when not, and nothing else changes. -/
def Obligations.Jumps : Prop :=
  ∀ (s : State) (w : Word), ∀ x ∈ [(Instr.jmp w, true), (.jnz w, !s.f.z), (.jz w, s.f.z), (.jnc w, !s.f.cy),
      (.jc w, s.f.cy), (.jpo w, !s.f.p), (.jpe w, s.f.p), (.jp w, !s.f.s), (.jm w, s.f.s)],
    exec x.1 s = .next { s with pc := if x.2 then w else s.pc + 3 }

/-- 44_branch.md R311, R321 to R329, R350: `CALL`, the eight conditional calls and `RST n`: taken, the address after the
instruction goes on the Call Stack and `pc` is the target; not taken, `pc` advances and a full Call Stack is no matter.
`sp` and memory are untouched. -/
def Obligations.Calls : Prop :=
  ∀ (s : State) (w : Word) (n : BitVec 3),
    (∀ x ∈ [(Instr.call w, true), (.cnz w, !s.f.z), (.cz w, s.f.z), (.cnc w, !s.f.cy), (.cc w, s.f.cy),
        (.cpo w, !s.f.p), (.cpe w, s.f.p), (.cp w, !s.f.s), (.cm w, s.f.s)],
      (x.2 = true → s.callstack.length < s.cfg.callDepthMax →
          exec x.1 s = .next { s with pc := w, callstack := (s.pc + 3) :: s.callstack })
        ∧ (x.2 = false → exec x.1 s = .next { s with pc := s.pc + 3 }))
      ∧ (s.callstack.length < s.cfg.callDepthMax →
          ∃ t, exec (.rst n) s = .next t ∧ t.pc.toNat = 8 * n.toNat ∧ t.callstack = (s.pc + 1) :: s.callstack
            ∧ Only { pc := true, calls := true } s t)

/-- 44_branch.md R311, R330 to R338: `RET` and the eight conditional returns: taken, `pc` is the top return point, which
leaves the Call Stack; not taken, `pc` advances and an empty Call Stack is no matter. -/
def Obligations.Returns : Prop :=
  ∀ s : State, ∀ x ∈ [(Instr.ret, true), (.rnz, !s.f.z), (.rz, s.f.z), (.rnc, !s.f.cy), (.rc, s.f.cy), (.rpo, !s.f.p),
      (.rpe, s.f.p), (.rp, !s.f.s), (.rm, s.f.s)],
    (∀ ret rest, x.2 = true → s.callstack = ret :: rest →
        exec x.1 s = .next { s with pc := ret, callstack := rest })
      ∧ (x.2 = false → exec x.1 s = .next { s with pc := s.pc + 1 })

/-- 44_branch.md R321 to R338, R350 and 60_exceptions.md R446, R447: a taken call with the Call Stack at
`CALL_DEPTH_MAX` raises `StackOverflow`, a taken return with an empty one `StackUnderflow`. -/
def Obligations.CallStackFaults : Prop :=
  ∀ (s : State) (w : Word) (n : BitVec 3),
    (s.cfg.callDepthMax ≤ s.callstack.length →
        ∀ x ∈ [(Instr.call w, true), (.cnz w, !s.f.z), (.cz w, s.f.z), (.cnc w, !s.f.cy), (.cc w, s.f.cy),
          (.cpo w, !s.f.p), (.cpe w, s.f.p), (.cp w, !s.f.s), (.cm w, s.f.s), (.rst n, true)],
        x.2 = true → exec x.1 s = .fault (.stackOverflow (.pc s.pc)))
      ∧ (s.callstack = [] →
          ∀ x ∈ [(Instr.ret, true), (.rnz, !s.f.z), (.rz, s.f.z), (.rnc, !s.f.cy), (.rc, s.f.cy), (.rpo, !s.f.p),
            (.rpe, s.f.p), (.rp, !s.f.s), (.rm, s.f.s)],
          x.2 = true → exec x.1 s = .fault (.stackUnderflow (.pc s.pc)))

/-- 44_branch.md R321, R330, R350: a return right after a call that was taken restores the state before the call, but
that `pc` is past the call instruction. -/
def Obligations.CallThenReturn : Prop :=
  ∀ (i : Instr) (s t : State), isCallClass i = true → exec i s = .next t → t.callstack ≠ s.callstack →
    exec .ret t = .next { s with pc := s.pc + BitVec.ofNat 16 i.length }

/-! ### Stack -/

/-- 45_stack.md R360 to R362: `PUSH` stores the high half above the low half below `sp` and lowers `sp` by two, wherever
`slots` gives both addresses; for `PSW` the halves are A and the flag byte. -/
def Obligations.PushStores : Prop :=
  ∀ (s : State) (x y : Nat), slots s (pushAddr s) = .ok (x, y) →
    (∀ p : Pair, ∃ t, exec (.push (.pair p)) s = .next t ∧ t.byteAt x = s.reg (Pair.loReg p)
        ∧ t.byteAt y = s.reg (Pair.hiReg p) ∧ t.sp = s.sp - 2 ∧ Only { mem := [x, y], sp := true } s t)
      ∧ (∃ t, exec (.push .psw) s = .next t
          ∧ (t.byteAt x).toNat = s.f.s.toNat * 128 + s.f.z.toNat * 64 + (s.cfg.pswUnused.getLsbD 2).toNat * 32
              + s.f.ac.toNat * 16 + (s.cfg.pswUnused.getLsbD 1).toNat * 8 + s.f.p.toNat * 4
              + (s.cfg.pswUnused.getLsbD 0).toNat * 2 + s.f.cy.toNat
          ∧ t.byteAt y = s.reg .a ∧ t.sp = s.sp - 2 ∧ Only { mem := [x, y], sp := true } s t)

/-- 45_stack.md R363, R364: `POP` takes the low half at `sp` and the high half above it and raises `sp` by two modulo
65536, wherever `slots` gives both addresses; `POP PSW` writes A and all five flags and ignores bits 5, 3, 1. -/
def Obligations.PopLoads : Prop :=
  ∀ (s : State) (x y : Nat), slots s s.sp.toNat = .ok (x, y) →
    (∀ p : Pair, ∃ t, exec (.pop (.pair p)) s = .next t ∧ t.reg (Pair.loReg p) = s.byteAt x
        ∧ t.reg (Pair.hiReg p) = s.byteAt y ∧ t.sp = s.sp + 2
        ∧ Only { regs := [Pair.hiReg p, Pair.loReg p], sp := true } s t)
      ∧ (∃ t, exec (.pop .psw) s = .next t ∧ t.reg .a = s.byteAt y ∧ t.f.s = (s.byteAt x).getLsbD 7
          ∧ t.f.z = (s.byteAt x).getLsbD 6 ∧ t.f.ac = (s.byteAt x).getLsbD 4 ∧ t.f.p = (s.byteAt x).getLsbD 2
          ∧ t.f.cy = (s.byteAt x).getLsbD 0 ∧ t.sp = s.sp + 2
          ∧ Only { regs := [.a], flags := true, sp := true } s t)

/-- 45_stack.md R360 to R364: a `POP` right after the `PUSH` of the same operand gives every register, every flag and
`sp` back, whatever the unused bits of `PSW` are. -/
def Obligations.PopAfterPush : Prop :=
  ∀ (s t : State) (rp : PairPsw), exec (.push rp) s = .next t →
    ∃ u, exec (.pop rp) t = .next u ∧ u.r = s.r ∧ u.f = s.f ∧ u.sp = s.sp

/-- 45_stack.md R365: `XTHL` exchanges L with the byte at `sp` and H with the byte above it; `sp` stays. -/
def Obligations.XthlExchanges : Prop :=
  ∀ (s : State) (x y : Nat), slots s s.sp.toNat = .ok (x, y) →
    ∃ t, exec .xthl s = .next t ∧ t.reg .l = s.byteAt x ∧ t.reg .h = s.byteAt y ∧ t.byteAt x = s.reg .l
      ∧ t.byteAt y = s.reg .h ∧ Only { regs := [.h, .l], mem := [x, y] } s t

/-- 20_memory.md R62 with 45_stack.md R361 to R365 and 41_data_transfer.md R209, R210, under `ADDR_WRAP = fault`: the
16-bit accesses that leave memory raise `InvalidMemoryAddress` with the first address outside, counted from the access's
lower address (log entry 30). -/
def Obligations.WordAccessFaults : Prop :=
  ∀ s : State, s.cfg.addrWrap = .fault →
    (s.sp.toNat < 2 →
        ∀ rp, exec (.push rp) s = .fault (.invalidMemoryAddress (.address ((s.sp.toNat : Int) - 2))))
      ∧ (s.sp = 0xFFFF →
          (∀ rp, exec (.pop rp) s = .fault (.invalidMemoryAddress (.address 65536)))
            ∧ exec .xthl s = .fault (.invalidMemoryAddress (.address 65536)))
      ∧ exec (.lhld 0xFFFF) s = .fault (.invalidMemoryAddress (.address 65536))
      ∧ exec (.shld 0xFFFF) s = .fault (.invalidMemoryAddress (.address 65536))

/-! ### Ports and machine control -/

/-- 46_machine_control.md R381, R382 and 20_memory.md R66: `IN` loads A from the port, `OUT` writes A to it, and neither
touches memory or `touched`. -/
def Obligations.InAndOut : Prop :=
  ∀ (s : State) (p : Byte),
    (∃ t, exec (.in_ p) s = .next t ∧ t.reg .a = s.portRead p ∧ Only { regs := [.a] } s t)
      ∧ (∃ t, exec (.out p) s = .next t ∧ t.portRead p = s.reg .a ∧ Only { ports := [p] } s t)

/-- 46_machine_control.md R383 to R388: `HLT` halts, `NOP` does nothing; under `INTERRUPT_OPS = nop`, `EI`, `DI` and
`SIM` do nothing and `RIM` loads 00H into A. -/
def Obligations.HltNopAndInterruptNops : Prop :=
  ∀ s : State,
    exec .hlt s = .next { s with halted := true } ∧ exec .nop s = .next s
      ∧ (s.cfg.interruptOps = .nop →
          exec .ei s = .next s ∧ exec .di s = .next s ∧ exec .sim s = .next s
            ∧ ∃ t, exec .rim s = .next t ∧ t.reg .a = 0x00 ∧ Only { regs := [.a] } s t)

/-- 46_machine_control.md R385 to R390: under `INTERRUPT_OPS = refuse` the four interrupt bytes, and always the bytes
without a row (but for `RESET_OPCODE`), raise `UnknownInstruction` with the byte and its address. -/
def Obligations.UnknownInstructions : Prop :=
  ∀ s : State,
    (s.cfg.interruptOps = .refuse →
        exec .ei s = .fault (.unknownInstruction (.byte s.pc 0xFB))
          ∧ exec .di s = .fault (.unknownInstruction (.byte s.pc 0xF3))
          ∧ exec .rim s = .fault (.unknownInstruction (.byte s.pc 0x20))
          ∧ exec .sim s = .fault (.unknownInstruction (.byte s.pc 0x30)))
      ∧ (∀ op : Byte, s.cfg.resetOpcode ≠ some op →
          exec (.undefined op) s = .fault (.unknownInstruction (.byte s.pc op)))

/-! ### Block mode -/

/-- 47_block_mode.md R403, R406: in block mode a line that is no Branch instruction, `HLT` or reset instruction does what
its linear-mode meaning does, and the cursor moves to the next line of the block. -/
def Obligations.BlockOrdinaryLine : Prop :=
  ∀ (s : State) (b : BlockRun) (line : Line) (c : Checked) (i : Instr),
    s.halted = false → s.block = some b → s.steps < s.cfg.stepLimit →
    (blockLines b b.cur)[b.idx]? = some line → checkLine s.cfg line.mnemonic line.operands = .ok c →
    resolve s.cfg [] c = .ok i → Machine.Instr.category i ≠ .branch → i ≠ .hlt → isUndefined i = false →
    step s =
      match exec i { s with steps := s.steps + 1 } with
      | .next t => .next { t with block := some { b with idx := b.idx + 1 } }
      | .fault k => .fault k
      | .refused w => .refused w

/-- 47_block_mode.md R404, R406 to R410: the lines that move or end a block run, each with the condition that takes it.
A jump or a call names a block by an identifier that is no 16-bit literal: taken, an absent block is `UndefinedLabel` before
any push, and a call pushes the line after it; a return resumes at the top return point; not taken, the cursor moves to the
next line with no check of the label or of the Call Stack. `HLT` halts and leaves the cursor; the word `RESET_MNEMONIC`,
where it is no word that the setting's table has (`forms`), resets and ends the run, with or without a `RESET_OPCODE`. Three
things are the model's choice, not the rules': that `HLT` leaves the cursor on its own line (log entry 28: R404 says
`halted <- true` alone), that the reset clause leaves no block run (log entries 6 and 28), and that in it a
`RESET_MNEMONIC` which spells `EI`, `DI`, `RIM` or `SIM` under `INTERRUPT_OPS = refuse`, or `ORG` or `DB`, is the reset
instruction here (log entry 27). -/
def Obligations.BlockBranches : Prop :=
  ∀ (s : State) (b : BlockRun) (line : Line) (name : Text),
    s.halted = false → s.block = some b → s.steps < s.cfg.stepLimit → (blockLines b b.cur)[b.idx]? = some line →
    (∀ x ∈ [("JMP", true), ("JNZ", !s.f.z), ("JZ", s.f.z), ("JNC", !s.f.cy), ("JC", s.f.cy), ("JPO", !s.f.p),
        ("JPE", s.f.p), ("JP", !s.f.s), ("JM", s.f.s)],
      isIdent name = true → literal16 name = none → line = { mnemonic := x.1.toList, operands := name } →
        (x.2 = true → isBlock b name = true →
            step s = .next { s with steps := s.steps + 1, block := some { b with cur := name, idx := 0 } })
          ∧ (x.2 = true → isBlock b name = false → step s = .fault (.undefinedLabel name))
          ∧ (x.2 = false →
              step s = .next { s with steps := s.steps + 1, block := some { b with idx := b.idx + 1 } }))
      ∧ (∀ x ∈ [("CALL", true), ("CNZ", !s.f.z), ("CZ", s.f.z), ("CNC", !s.f.cy), ("CC", s.f.cy), ("CPO", !s.f.p),
          ("CPE", s.f.p), ("CP", !s.f.s), ("CM", s.f.s)],
        isIdent name = true → literal16 name = none → line = { mnemonic := x.1.toList, operands := name } →
          (x.2 = true → isBlock b name = true → b.callstack.length < s.cfg.callDepthMax →
              step s = .next { s with
                steps := s.steps + 1
                block := some { b with cur := name, idx := 0, callstack := (b.cur, b.idx + 1) :: b.callstack } })
            ∧ (x.2 = true → isBlock b name = true → s.cfg.callDepthMax ≤ b.callstack.length →
                step s = .fault (.stackOverflow (.cursor b.cur b.idx)))
            ∧ (x.2 = true → isBlock b name = false → step s = .fault (.undefinedLabel name))
            ∧ (x.2 = false →
                step s = .next { s with steps := s.steps + 1, block := some { b with idx := b.idx + 1 } }))
      ∧ (∀ x ∈ [("RET", true), ("RNZ", !s.f.z), ("RZ", s.f.z), ("RNC", !s.f.cy), ("RC", s.f.cy), ("RPO", !s.f.p),
          ("RPE", s.f.p), ("RP", !s.f.s), ("RM", s.f.s)],
        line = { mnemonic := x.1.toList, operands := [] } →
          (∀ label idx rest, x.2 = true → b.callstack = (label, idx) :: rest →
              step s = .next { s with
                steps := s.steps + 1
                block := some { b with cur := label, idx := idx, callstack := rest } })
            ∧ (x.2 = true → b.callstack = [] → step s = .fault (.stackUnderflow (.cursor b.cur b.idx)))
            ∧ (x.2 = false →
                step s = .next { s with steps := s.steps + 1, block := some { b with idx := b.idx + 1 } }))
      ∧ (line = { mnemonic := "HLT".toList, operands := [] } →
          step s = .next { s with steps := s.steps + 1, halted := true })
      ∧ (s.cfg.resetMnemonic = some name → (forms s.cfg).find? (fun row => row.1 == name) = none →
          line = { mnemonic := name, operands := [] } → step s = .next { resetOp s with halted := true })

/-- 47_block_mode.md R403, R405, R410: in block mode a step past the budget is `StepLimitExceeded`, and within it a cursor at
or past the end of its block is `AmbiguousHalt`. An address has no meaning there: `PCHL` and `RST n` are
`UnknownInstruction`; a jump or a call to a 16-bit literal within the memory map is `UndefinedLabel` with the literal as the
name when it is taken, and moves to the next line when not; an identifier, that is no literal, as a data address is
`UndefinedLabel`. -/
def Obligations.BlockFaults : Prop :=
  ∀ (s : State) (b : BlockRun), s.halted = false → s.block = some b →
    (s.cfg.stepLimit ≤ s.steps → step s = .fault (.stepLimitExceeded (.cursor b.cur b.idx)))
      ∧ (s.steps < s.cfg.stepLimit → (blockLines b b.cur).length ≤ b.idx →
          step s = .fault (.ambiguousHalt b.cur))
      ∧ (∀ line : Line, s.steps < s.cfg.stepLimit → (blockLines b b.cur)[b.idx]? = some line →
          (line = { mnemonic := "PCHL".toList, operands := [] } →
              step s = .fault (.unknownInstruction (.word "PCHL".toList)))
            ∧ (∀ n : BitVec 3,
                line = { mnemonic := "RST".toList, operands := Machine.Instr.operandText (.rst n) } →
                step s = .fault (.unknownInstruction (.word "RST".toList)))
            ∧ (∀ w : Word, inMap s.cfg w.toNat = true →
                ∀ x ∈ [("JMP", true), ("JNZ", !s.f.z), ("JZ", s.f.z), ("JNC", !s.f.cy), ("JC", s.f.cy),
                  ("JPO", !s.f.p), ("JPE", s.f.p), ("JP", !s.f.s), ("JM", s.f.s), ("CALL", true), ("CNZ", !s.f.z),
                  ("CZ", s.f.z), ("CNC", !s.f.cy), ("CC", s.f.cy), ("CPO", !s.f.p), ("CPE", s.f.p), ("CP", !s.f.s),
                  ("CM", s.f.s)],
                line = { mnemonic := x.1.toList, operands := text16 w } →
                  (x.2 = true → step s = .fault (.undefinedLabel (text16 w)))
                    ∧ (x.2 = false →
                        step s = .next { s with steps := s.steps + 1, block := some { b with idx := b.idx + 1 } }))
            ∧ (∀ name : Text, isIdent name = true → literal16 name = none →
                (∀ word ∈ ["LDA", "STA", "LHLD", "SHLD"], line = { mnemonic := word.toList, operands := name } →
                    step s = .fault (.undefinedLabel name))
                  ∧ (∀ rp : PairSp, line = { mnemonic := "LXI".toList, operands := PairSp.text rp ++ ',' :: name } →
                      step s = .fault (.undefinedLabel name))))

/-! ### The assembler -/

/-- 35_assembler.md R135 and property Q6: a name absent from the Label Table in the address position of a jump or a call
is always `UndefinedLabel`, never a jump to address 0. -/
def Obligations.AbsentLabelIsUndefined : Prop :=
  ∀ (cfg : Params) (labels : List (Text × Nat)) (name word : Text),
    isIdent name = true → literal16 name = none → labelAddr labels name = none →
    word ∈ ["JMP", "JNZ", "JZ", "JNC", "JC", "JPO", "JPE", "JP", "JM", "CALL", "CNZ", "CZ", "CNC", "CC", "CPO", "CPE",
      "CP", "CM"].map String.toList →
    validate cfg word name labels = .error { kind := .undefinedLabel name, pos := 1 }

/-- 35_assembler.md R152, R157, R160, R161: a successful Assemble keeps the invariant, so every byte and every
instruction start it places is within memory; and it changes nothing but memory, `istart`, the Label Table and the
listing. -/
def Obligations.AssembleKeepsInv : Prop :=
  ∀ (s t : State) (src : Text) (x : Assembled), s.Inv → assemble s src = .ok (t, x) →
    t.Inv ∧ t = { s with mem := t.mem, istart := t.istart, labels := t.labels, listing := t.listing }

end
end

