-- ==== Sys2Proof/Laws/Bits.lean ====
section
/-! SUPPORT. The laws of `hi`, `lo` and concatenation (00_scope.md R8). -/

namespace Sys2Proof.Machine

theorem hi_toNat (w : Word) : (hi w).toNat = w.toNat / 256 := by
  have := w.isLt
  simp only [hi, BitVec.extractLsb'_toNat, Nat.shiftRight_eq_div_pow]
  omega

theorem lo_toNat (w : Word) : (lo w).toNat = w.toNat % 256 := by simp [lo, BitVec.extractLsb'_toNat]

theorem cat_toNat (a b : Byte) : (cat a b).toNat = a.toNat * 256 + b.toNat := by
  have h : (cat a b).toNat = a.toNat <<< 8 ||| b.toNat := BitVec.toNat_append a b
  rw [h, ← Nat.shiftLeft_add_eq_or_of_lt b.isLt, Nat.shiftLeft_eq]

@[simp] theorem hi_cat (a b : Byte) : hi (cat a b) = a := by
  apply BitVec.eq_of_toNat_eq
  have := b.isLt
  rw [hi_toNat, cat_toNat]
  omega

@[simp] theorem lo_cat (a b : Byte) : lo (cat a b) = b := by
  apply BitVec.eq_of_toNat_eq
  have := b.isLt
  rw [lo_toNat, cat_toNat]
  omega

@[simp] theorem cat_hi_lo (w : Word) : cat (hi w) (lo w) = w := by
  apply BitVec.eq_of_toNat_eq
  rw [cat_toNat, hi_toNat, lo_toNat]
  omega

end Sys2Proof.Machine
end

