-- ==== Sys2Proof/Laws/State.lean ====
section
/-! SUPPORT. One lemma per field per update of a state, so that no proof unfolds a record update. -/

namespace Sys2Proof.Machine

/-! ### `State.setReg` -/

@[simp] theorem State.setReg_r (s : State) (x : Reg) (v : Byte) : (s.setReg x v).r = s.r.set x v := rfl
@[simp] theorem State.setReg_pc (s : State) (x : Reg) (v : Byte) : (s.setReg x v).pc = s.pc := rfl
@[simp] theorem State.setReg_sp (s : State) (x : Reg) (v : Byte) : (s.setReg x v).sp = s.sp := rfl
@[simp] theorem State.setReg_f (s : State) (x : Reg) (v : Byte) : (s.setReg x v).f = s.f := rfl
@[simp] theorem State.setReg_mem (s : State) (x : Reg) (v : Byte) : (s.setReg x v).mem = s.mem := rfl
@[simp] theorem State.setReg_ports (s : State) (x : Reg) (v : Byte) : (s.setReg x v).ports = s.ports := rfl
@[simp] theorem State.setReg_callstack (s : State) (x : Reg) (v : Byte) : (s.setReg x v).callstack = s.callstack := rfl
@[simp] theorem State.setReg_steps (s : State) (x : Reg) (v : Byte) : (s.setReg x v).steps = s.steps := rfl
@[simp] theorem State.setReg_halted (s : State) (x : Reg) (v : Byte) : (s.setReg x v).halted = s.halted := rfl
@[simp] theorem State.setReg_istart (s : State) (x : Reg) (v : Byte) : (s.setReg x v).istart = s.istart := rfl
@[simp] theorem State.setReg_touched (s : State) (x : Reg) (v : Byte) : (s.setReg x v).touched = s.touched := rfl
@[simp] theorem State.setReg_labels (s : State) (x : Reg) (v : Byte) : (s.setReg x v).labels = s.labels := rfl
@[simp] theorem State.setReg_listing (s : State) (x : Reg) (v : Byte) : (s.setReg x v).listing = s.listing := rfl
@[simp] theorem State.setReg_block (s : State) (x : Reg) (v : Byte) : (s.setReg x v).block = s.block := rfl
@[simp] theorem State.setReg_cfg (s : State) (x : Reg) (v : Byte) : (s.setReg x v).cfg = s.cfg := rfl

/-! ### `State.setFlags` -/

@[simp] theorem State.setFlags_r (s : State) (g : Flags) : (s.setFlags g).r = s.r := rfl
@[simp] theorem State.setFlags_pc (s : State) (g : Flags) : (s.setFlags g).pc = s.pc := rfl
@[simp] theorem State.setFlags_sp (s : State) (g : Flags) : (s.setFlags g).sp = s.sp := rfl
@[simp] theorem State.setFlags_f (s : State) (g : Flags) : (s.setFlags g).f = g := rfl
@[simp] theorem State.setFlags_mem (s : State) (g : Flags) : (s.setFlags g).mem = s.mem := rfl
@[simp] theorem State.setFlags_ports (s : State) (g : Flags) : (s.setFlags g).ports = s.ports := rfl
@[simp] theorem State.setFlags_callstack (s : State) (g : Flags) : (s.setFlags g).callstack = s.callstack := rfl
@[simp] theorem State.setFlags_steps (s : State) (g : Flags) : (s.setFlags g).steps = s.steps := rfl
@[simp] theorem State.setFlags_halted (s : State) (g : Flags) : (s.setFlags g).halted = s.halted := rfl
@[simp] theorem State.setFlags_istart (s : State) (g : Flags) : (s.setFlags g).istart = s.istart := rfl
@[simp] theorem State.setFlags_touched (s : State) (g : Flags) : (s.setFlags g).touched = s.touched := rfl
@[simp] theorem State.setFlags_labels (s : State) (g : Flags) : (s.setFlags g).labels = s.labels := rfl
@[simp] theorem State.setFlags_listing (s : State) (g : Flags) : (s.setFlags g).listing = s.listing := rfl
@[simp] theorem State.setFlags_block (s : State) (g : Flags) : (s.setFlags g).block = s.block := rfl
@[simp] theorem State.setFlags_cfg (s : State) (g : Flags) : (s.setFlags g).cfg = s.cfg := rfl

/-! ### `State.setCy` -/

@[simp] theorem State.setCy_r (s : State) (b : Bool) : (s.setCy b).r = s.r := rfl
@[simp] theorem State.setCy_pc (s : State) (b : Bool) : (s.setCy b).pc = s.pc := rfl
@[simp] theorem State.setCy_sp (s : State) (b : Bool) : (s.setCy b).sp = s.sp := rfl
@[simp] theorem State.setCy_f (s : State) (b : Bool) : (s.setCy b).f = { s.f with cy := b } := rfl
@[simp] theorem State.setCy_mem (s : State) (b : Bool) : (s.setCy b).mem = s.mem := rfl
@[simp] theorem State.setCy_ports (s : State) (b : Bool) : (s.setCy b).ports = s.ports := rfl
@[simp] theorem State.setCy_callstack (s : State) (b : Bool) : (s.setCy b).callstack = s.callstack := rfl
@[simp] theorem State.setCy_steps (s : State) (b : Bool) : (s.setCy b).steps = s.steps := rfl
@[simp] theorem State.setCy_halted (s : State) (b : Bool) : (s.setCy b).halted = s.halted := rfl
@[simp] theorem State.setCy_istart (s : State) (b : Bool) : (s.setCy b).istart = s.istart := rfl
@[simp] theorem State.setCy_touched (s : State) (b : Bool) : (s.setCy b).touched = s.touched := rfl
@[simp] theorem State.setCy_labels (s : State) (b : Bool) : (s.setCy b).labels = s.labels := rfl
@[simp] theorem State.setCy_listing (s : State) (b : Bool) : (s.setCy b).listing = s.listing := rfl
@[simp] theorem State.setCy_block (s : State) (b : Bool) : (s.setCy b).block = s.block := rfl
@[simp] theorem State.setCy_cfg (s : State) (b : Bool) : (s.setCy b).cfg = s.cfg := rfl

/-! ### `State.setPc` -/

@[simp] theorem State.setPc_r (s : State) (w : Word) : (s.setPc w).r = s.r := rfl
@[simp] theorem State.setPc_pc (s : State) (w : Word) : (s.setPc w).pc = w := rfl
@[simp] theorem State.setPc_sp (s : State) (w : Word) : (s.setPc w).sp = s.sp := rfl
@[simp] theorem State.setPc_f (s : State) (w : Word) : (s.setPc w).f = s.f := rfl
@[simp] theorem State.setPc_mem (s : State) (w : Word) : (s.setPc w).mem = s.mem := rfl
@[simp] theorem State.setPc_ports (s : State) (w : Word) : (s.setPc w).ports = s.ports := rfl
@[simp] theorem State.setPc_callstack (s : State) (w : Word) : (s.setPc w).callstack = s.callstack := rfl
@[simp] theorem State.setPc_steps (s : State) (w : Word) : (s.setPc w).steps = s.steps := rfl
@[simp] theorem State.setPc_halted (s : State) (w : Word) : (s.setPc w).halted = s.halted := rfl
@[simp] theorem State.setPc_istart (s : State) (w : Word) : (s.setPc w).istart = s.istart := rfl
@[simp] theorem State.setPc_touched (s : State) (w : Word) : (s.setPc w).touched = s.touched := rfl
@[simp] theorem State.setPc_labels (s : State) (w : Word) : (s.setPc w).labels = s.labels := rfl
@[simp] theorem State.setPc_listing (s : State) (w : Word) : (s.setPc w).listing = s.listing := rfl
@[simp] theorem State.setPc_block (s : State) (w : Word) : (s.setPc w).block = s.block := rfl
@[simp] theorem State.setPc_cfg (s : State) (w : Word) : (s.setPc w).cfg = s.cfg := rfl

/-! ### `State.setSp` -/

@[simp] theorem State.setSp_r (s : State) (w : Word) : (s.setSp w).r = s.r := rfl
@[simp] theorem State.setSp_pc (s : State) (w : Word) : (s.setSp w).pc = s.pc := rfl
@[simp] theorem State.setSp_sp (s : State) (w : Word) : (s.setSp w).sp = w := rfl
@[simp] theorem State.setSp_f (s : State) (w : Word) : (s.setSp w).f = s.f := rfl
@[simp] theorem State.setSp_mem (s : State) (w : Word) : (s.setSp w).mem = s.mem := rfl
@[simp] theorem State.setSp_ports (s : State) (w : Word) : (s.setSp w).ports = s.ports := rfl
@[simp] theorem State.setSp_callstack (s : State) (w : Word) : (s.setSp w).callstack = s.callstack := rfl
@[simp] theorem State.setSp_steps (s : State) (w : Word) : (s.setSp w).steps = s.steps := rfl
@[simp] theorem State.setSp_halted (s : State) (w : Word) : (s.setSp w).halted = s.halted := rfl
@[simp] theorem State.setSp_istart (s : State) (w : Word) : (s.setSp w).istart = s.istart := rfl
@[simp] theorem State.setSp_touched (s : State) (w : Word) : (s.setSp w).touched = s.touched := rfl
@[simp] theorem State.setSp_labels (s : State) (w : Word) : (s.setSp w).labels = s.labels := rfl
@[simp] theorem State.setSp_listing (s : State) (w : Word) : (s.setSp w).listing = s.listing := rfl
@[simp] theorem State.setSp_block (s : State) (w : Word) : (s.setSp w).block = s.block := rfl
@[simp] theorem State.setSp_cfg (s : State) (w : Word) : (s.setSp w).cfg = s.cfg := rfl

/-! ### `State.setPair` -/

@[simp] theorem State.setPair_pc (s : State) (p : Pair) (v : Word) : (s.setPair p v).pc = s.pc := rfl
@[simp] theorem State.setPair_sp (s : State) (p : Pair) (v : Word) : (s.setPair p v).sp = s.sp := rfl
@[simp] theorem State.setPair_f (s : State) (p : Pair) (v : Word) : (s.setPair p v).f = s.f := rfl
@[simp] theorem State.setPair_mem (s : State) (p : Pair) (v : Word) : (s.setPair p v).mem = s.mem := rfl
@[simp] theorem State.setPair_ports (s : State) (p : Pair) (v : Word) : (s.setPair p v).ports = s.ports := rfl
@[simp] theorem State.setPair_callstack (s : State) (p : Pair) (v : Word) : (s.setPair p v).callstack = s.callstack := rfl
@[simp] theorem State.setPair_steps (s : State) (p : Pair) (v : Word) : (s.setPair p v).steps = s.steps := rfl
@[simp] theorem State.setPair_halted (s : State) (p : Pair) (v : Word) : (s.setPair p v).halted = s.halted := rfl
@[simp] theorem State.setPair_istart (s : State) (p : Pair) (v : Word) : (s.setPair p v).istart = s.istart := rfl
@[simp] theorem State.setPair_touched (s : State) (p : Pair) (v : Word) : (s.setPair p v).touched = s.touched := rfl
@[simp] theorem State.setPair_labels (s : State) (p : Pair) (v : Word) : (s.setPair p v).labels = s.labels := rfl
@[simp] theorem State.setPair_listing (s : State) (p : Pair) (v : Word) : (s.setPair p v).listing = s.listing := rfl
@[simp] theorem State.setPair_block (s : State) (p : Pair) (v : Word) : (s.setPair p v).block = s.block := rfl
@[simp] theorem State.setPair_cfg (s : State) (p : Pair) (v : Word) : (s.setPair p v).cfg = s.cfg := rfl

/-! ### `State.storeByte` -/

@[simp] theorem State.storeByte_r (s : State) (a : Nat) (v : Byte) : (s.storeByte a v).r = s.r := rfl
@[simp] theorem State.storeByte_pc (s : State) (a : Nat) (v : Byte) : (s.storeByte a v).pc = s.pc := rfl
@[simp] theorem State.storeByte_sp (s : State) (a : Nat) (v : Byte) : (s.storeByte a v).sp = s.sp := rfl
@[simp] theorem State.storeByte_f (s : State) (a : Nat) (v : Byte) : (s.storeByte a v).f = s.f := rfl
@[simp] theorem State.storeByte_mem (s : State) (a : Nat) (v : Byte) : (s.storeByte a v).mem = cellWrite resetMem s.mem a v := rfl
@[simp] theorem State.storeByte_ports (s : State) (a : Nat) (v : Byte) : (s.storeByte a v).ports = s.ports := rfl
@[simp] theorem State.storeByte_callstack (s : State) (a : Nat) (v : Byte) : (s.storeByte a v).callstack = s.callstack := rfl
@[simp] theorem State.storeByte_steps (s : State) (a : Nat) (v : Byte) : (s.storeByte a v).steps = s.steps := rfl
@[simp] theorem State.storeByte_halted (s : State) (a : Nat) (v : Byte) : (s.storeByte a v).halted = s.halted := rfl
@[simp] theorem State.storeByte_istart (s : State) (a : Nat) (v : Byte) : (s.storeByte a v).istart = s.istart := rfl
@[simp] theorem State.storeByte_touched (s : State) (a : Nat) (v : Byte) : (s.storeByte a v).touched = addrInsert s.touched a := rfl
@[simp] theorem State.storeByte_labels (s : State) (a : Nat) (v : Byte) : (s.storeByte a v).labels = s.labels := rfl
@[simp] theorem State.storeByte_listing (s : State) (a : Nat) (v : Byte) : (s.storeByte a v).listing = s.listing := rfl
@[simp] theorem State.storeByte_block (s : State) (a : Nat) (v : Byte) : (s.storeByte a v).block = s.block := rfl
@[simp] theorem State.storeByte_cfg (s : State) (a : Nat) (v : Byte) : (s.storeByte a v).cfg = s.cfg := rfl

/-! ### `State.store` -/

@[simp] theorem State.store_r (s : State) (w : Word) (v : Byte) : (s.store w v).r = s.r := rfl
@[simp] theorem State.store_pc (s : State) (w : Word) (v : Byte) : (s.store w v).pc = s.pc := rfl
@[simp] theorem State.store_sp (s : State) (w : Word) (v : Byte) : (s.store w v).sp = s.sp := rfl
@[simp] theorem State.store_f (s : State) (w : Word) (v : Byte) : (s.store w v).f = s.f := rfl
@[simp] theorem State.store_mem (s : State) (w : Word) (v : Byte) : (s.store w v).mem = cellWrite resetMem s.mem w.toNat v := rfl
@[simp] theorem State.store_ports (s : State) (w : Word) (v : Byte) : (s.store w v).ports = s.ports := rfl
@[simp] theorem State.store_callstack (s : State) (w : Word) (v : Byte) : (s.store w v).callstack = s.callstack := rfl
@[simp] theorem State.store_steps (s : State) (w : Word) (v : Byte) : (s.store w v).steps = s.steps := rfl
@[simp] theorem State.store_halted (s : State) (w : Word) (v : Byte) : (s.store w v).halted = s.halted := rfl
@[simp] theorem State.store_istart (s : State) (w : Word) (v : Byte) : (s.store w v).istart = s.istart := rfl
@[simp] theorem State.store_touched (s : State) (w : Word) (v : Byte) : (s.store w v).touched = addrInsert s.touched w.toNat := rfl
@[simp] theorem State.store_labels (s : State) (w : Word) (v : Byte) : (s.store w v).labels = s.labels := rfl
@[simp] theorem State.store_listing (s : State) (w : Word) (v : Byte) : (s.store w v).listing = s.listing := rfl
@[simp] theorem State.store_block (s : State) (w : Word) (v : Byte) : (s.store w v).block = s.block := rfl
@[simp] theorem State.store_cfg (s : State) (w : Word) (v : Byte) : (s.store w v).cfg = s.cfg := rfl

/-! ### `State.portWrite` -/

@[simp] theorem State.portWrite_r (s : State) (p : Byte) (v : Byte) : (s.portWrite p v).r = s.r := rfl
@[simp] theorem State.portWrite_pc (s : State) (p : Byte) (v : Byte) : (s.portWrite p v).pc = s.pc := rfl
@[simp] theorem State.portWrite_sp (s : State) (p : Byte) (v : Byte) : (s.portWrite p v).sp = s.sp := rfl
@[simp] theorem State.portWrite_f (s : State) (p : Byte) (v : Byte) : (s.portWrite p v).f = s.f := rfl
@[simp] theorem State.portWrite_mem (s : State) (p : Byte) (v : Byte) : (s.portWrite p v).mem = s.mem := rfl
@[simp] theorem State.portWrite_ports (s : State) (p : Byte) (v : Byte) : (s.portWrite p v).ports = cellWrite s.cfg.resetPort s.ports p.toNat v := rfl
@[simp] theorem State.portWrite_callstack (s : State) (p : Byte) (v : Byte) : (s.portWrite p v).callstack = s.callstack := rfl
@[simp] theorem State.portWrite_steps (s : State) (p : Byte) (v : Byte) : (s.portWrite p v).steps = s.steps := rfl
@[simp] theorem State.portWrite_halted (s : State) (p : Byte) (v : Byte) : (s.portWrite p v).halted = s.halted := rfl
@[simp] theorem State.portWrite_istart (s : State) (p : Byte) (v : Byte) : (s.portWrite p v).istart = s.istart := rfl
@[simp] theorem State.portWrite_touched (s : State) (p : Byte) (v : Byte) : (s.portWrite p v).touched = s.touched := rfl
@[simp] theorem State.portWrite_labels (s : State) (p : Byte) (v : Byte) : (s.portWrite p v).labels = s.labels := rfl
@[simp] theorem State.portWrite_listing (s : State) (p : Byte) (v : Byte) : (s.portWrite p v).listing = s.listing := rfl
@[simp] theorem State.portWrite_block (s : State) (p : Byte) (v : Byte) : (s.portWrite p v).block = s.block := rfl
@[simp] theorem State.portWrite_cfg (s : State) (p : Byte) (v : Byte) : (s.portWrite p v).cfg = s.cfg := rfl

/-! ### Registers -/

/-- Reading a register after writing one. -/
theorem Regs.get_set (r : Regs) (x y : Reg) (v : Byte) : (r.set x v).get y = if y = x then v else r.get y := by
  cases x <;> cases y <;> rfl

@[simp] theorem State.reg_setReg (s : State) (x y : Reg) (v : Byte) :
    (s.setReg x v).reg y = if y = x then v else s.reg y := Regs.get_set s.r x y v

@[simp] theorem State.reg_setFlags (s : State) (g : Flags) (y : Reg) : (s.setFlags g).reg y = s.reg y := rfl
@[simp] theorem State.reg_setCy (s : State) (b : Bool) (y : Reg) : (s.setCy b).reg y = s.reg y := rfl
@[simp] theorem State.reg_setPc (s : State) (w : Word) (y : Reg) : (s.setPc w).reg y = s.reg y := rfl
@[simp] theorem State.reg_setSp (s : State) (w : Word) (y : Reg) : (s.setSp w).reg y = s.reg y := rfl
@[simp] theorem State.reg_storeByte (s : State) (a : Nat) (v : Byte) (y : Reg) : (s.storeByte a v).reg y = s.reg y := rfl
@[simp] theorem State.reg_store (s : State) (w : Word) (v : Byte) (y : Reg) : (s.store w v).reg y = s.reg y := rfl
@[simp] theorem State.reg_portWrite (s : State) (p v : Byte) (y : Reg) : (s.portWrite p v).reg y = s.reg y := rfl

/-! ### Bytes and ports seen through an update of something else -/

@[simp] theorem State.byteAt_setReg (s : State) (x : Reg) (v : Byte) (a : Nat) : (s.setReg x v).byteAt a = s.byteAt a := rfl
@[simp] theorem State.byteAt_setPair (s : State) (p : Pair) (v : Word) (a : Nat) : (s.setPair p v).byteAt a = s.byteAt a := rfl
@[simp] theorem State.byteAt_setFlags (s : State) (g : Flags) (a : Nat) : (s.setFlags g).byteAt a = s.byteAt a := rfl
@[simp] theorem State.byteAt_setCy (s : State) (b : Bool) (a : Nat) : (s.setCy b).byteAt a = s.byteAt a := rfl
@[simp] theorem State.byteAt_setPc (s : State) (w : Word) (a : Nat) : (s.setPc w).byteAt a = s.byteAt a := rfl
@[simp] theorem State.byteAt_setSp (s : State) (w : Word) (a : Nat) : (s.setSp w).byteAt a = s.byteAt a := rfl
@[simp] theorem State.byteAt_portWrite (s : State) (p v : Byte) (a : Nat) : (s.portWrite p v).byteAt a = s.byteAt a := rfl

@[simp] theorem State.portRead_setReg (s : State) (x : Reg) (v q : Byte) : (s.setReg x v).portRead q = s.portRead q := rfl
@[simp] theorem State.portRead_setPair (s : State) (p : Pair) (v : Word) (q : Byte) : (s.setPair p v).portRead q = s.portRead q := rfl
@[simp] theorem State.portRead_setFlags (s : State) (g : Flags) (q : Byte) : (s.setFlags g).portRead q = s.portRead q := rfl
@[simp] theorem State.portRead_setCy (s : State) (b : Bool) (q : Byte) : (s.setCy b).portRead q = s.portRead q := rfl
@[simp] theorem State.portRead_setPc (s : State) (w : Word) (q : Byte) : (s.setPc w).portRead q = s.portRead q := rfl
@[simp] theorem State.portRead_setSp (s : State) (w : Word) (q : Byte) : (s.setSp w).portRead q = s.portRead q := rfl
@[simp] theorem State.portRead_storeByte (s : State) (a : Nat) (v q : Byte) : (s.storeByte a v).portRead q = s.portRead q := rfl
@[simp] theorem State.portRead_store (s : State) (w : Word) (v q : Byte) : (s.store w v).portRead q = s.portRead q := rfl

end Sys2Proof.Machine
end

