-- ==== Sys2Proof/Laws/Memory.lean ====
section
/-! SUPPORT. The laws of the canonical byte maps and address sets: read after write, other keys untouched, and every
operation keeps the canonical form. -/

namespace Sys2Proof.Machine

/-! ### Reading -/

theorem cellRead_cellErase (d : Byte) (m : List Host.Cell) (a b : Nat) :
    cellRead d (cellErase m a) b = if b = a then d else cellRead d m b := by
  induction m with
  | nil => simp [cellErase, cellRead]
  | cons x rest ih =>
    obtain ⟨k, v⟩ := x
    simp only [cellErase]
    split
    · next h =>
      subst h
      rw [ih]
      simp only [cellRead]
      by_cases hb : b = k
      · simp [hb]
      · simp [hb, Ne.symm hb]
    · next h =>
      simp only [cellRead]
      split
      · next h2 => subst h2; simp [h]
      · exact ih

theorem cellRead_cellInsert (d v : Byte) (m : List Host.Cell) (a b : Nat) (h : cellRead d m a = d ∨ b ≠ a)
    (hm : ∀ x ∈ m, x.1 ≠ a) :
    cellRead d (cellInsert m a v) b = if b = a then v else cellRead d m b := by
  induction m with
  | nil => simp [cellInsert, cellRead, eq_comm]
  | cons x rest ih =>
    obtain ⟨k, w⟩ := x
    have hk : k ≠ a := hm (k, w) (by simp)
    have hr : ∀ x ∈ rest, x.1 ≠ a := fun x hx => hm x (by simp [hx])
    simp only [cellInsert]
    split
    · simp only [cellRead]
      by_cases hb : b = a
      · subst hb; simp
      · simp [hb, Ne.symm hb]
    · simp only [cellRead]
      by_cases hkb : k = b
      · subst hkb; simp [hk]
      · simp only [hkb, if_false]
        exact ih (by by_cases hb : b = a
                     · left; simpa [cellRead, hk] using h.resolve_right (by simpa using hb)
                     · exact .inr hb) hr

theorem cellErase_keys (m : List Host.Cell) (a : Nat) : ∀ x ∈ cellErase m a, x.1 ≠ a := by
  induction m with
  | nil => simp [cellErase]
  | cons x rest ih =>
    obtain ⟨k, v⟩ := x
    simp only [cellErase]
    split
    · exact ih
    · next h =>
      intro x hx
      rcases List.mem_cons.1 hx with rfl | hx
      · exact h
      · exact ih x hx

/-- Read after write, for every map, canonical or not. -/
theorem cellRead_cellWrite (d v : Byte) (m : List Host.Cell) (a b : Nat) :
    cellRead d (cellWrite d m a v) b = if b = a then v else cellRead d m b := by
  unfold cellWrite
  split
  · next h => subst h; exact cellRead_cellErase v m a b
  · rw [cellRead_cellInsert d v _ a b (.inl (by simp [cellRead_cellErase])) (cellErase_keys m a), cellRead_cellErase]
    split <;> rfl

@[simp] theorem State.byteAt_storeByte (s : State) (a b : Nat) (v : Byte) :
    (s.storeByte a v).byteAt b = if b = a then v else s.byteAt b := cellRead_cellWrite _ _ _ _ _

@[simp] theorem State.byteAt_store (s : State) (w : Word) (b : Nat) (v : Byte) :
    (s.store w v).byteAt b = if b = w.toNat then v else s.byteAt b := cellRead_cellWrite _ _ _ _ _

@[simp] theorem State.portRead_portWrite (s : State) (p q v : Byte) :
    (s.portWrite p v).portRead q = if q = p then v else s.portRead q := by
  have h : (s.portWrite p v).portRead q = cellRead s.cfg.resetPort (cellWrite s.cfg.resetPort s.ports p.toNat v) q.toNat := rfl
  rw [h, cellRead_cellWrite]
  by_cases hq : q = p
  · simp [hq]
  · have : q.toNat ≠ p.toNat := fun e => hq (BitVec.eq_of_toNat_eq e)
    simp [hq, this, State.portRead]

/-! ### The canonical form -/

/-- A key is above an optional lower bound. -/
def above (lower : Option Nat) (a : Nat) : Prop := ∀ j, lower = some j → j < a

theorem cellsWfFrom_cons (d : Byte) (bound k : Nat) (v : Byte) (lower : Option Nat) (m : List Host.Cell) :
    cellsWfFrom d bound lower ((k, v) :: m) = true ↔
      above lower k ∧ k < bound ∧ v ≠ d ∧ cellsWfFrom d bound (some k) m = true := by
  cases lower <;> simp [cellsWfFrom, above, and_assoc]

theorem cellsWfFrom_mono (d : Byte) (bound : Nat) (lo lo' : Option Nat) (m : List Host.Cell)
    (hlo : ∀ a, above lo a → above lo' a) (h : cellsWfFrom d bound lo m = true) : cellsWfFrom d bound lo' m = true := by
  cases m with
  | nil => simp [cellsWfFrom]
  | cons x rest =>
    obtain ⟨k, v⟩ := x
    rw [cellsWfFrom_cons] at h ⊢
    exact ⟨hlo k h.1, h.2⟩

theorem cellErase_wf (d : Byte) (bound a : Nat) (lo : Option Nat) (m : List Host.Cell)
    (h : cellsWfFrom d bound lo m = true) : cellsWfFrom d bound lo (cellErase m a) = true := by
  induction m generalizing lo with
  | nil => simp [cellErase, cellsWfFrom]
  | cons x rest ih =>
    obtain ⟨k, v⟩ := x
    rw [cellsWfFrom_cons] at h
    simp only [cellErase]
    split
    · refine ih lo (cellsWfFrom_mono d bound (some k) lo rest ?_ h.2.2.2)
      intro b hb j hj
      exact Nat.lt_trans (h.1 j hj) (hb k rfl)
    · rw [cellsWfFrom_cons]; exact ⟨h.1, h.2.1, h.2.2.1, ih (some k) h.2.2.2⟩

theorem cellInsert_wf (d v : Byte) (bound a : Nat) (lo : Option Nat) (m : List Host.Cell) (hv : v ≠ d) (ha : a < bound)
    (hlo : above lo a) (hm : ∀ x ∈ m, x.1 ≠ a) (h : cellsWfFrom d bound lo m = true) :
    cellsWfFrom d bound lo (cellInsert m a v) = true := by
  induction m generalizing lo with
  | nil => simp only [cellInsert, cellsWfFrom_cons]; exact ⟨hlo, ha, hv, by simp [cellsWfFrom]⟩
  | cons x rest ih =>
    obtain ⟨k, w⟩ := x
    rw [cellsWfFrom_cons] at h
    simp only [cellInsert]
    split
    · next hak =>
      rw [cellsWfFrom_cons, cellsWfFrom_cons]
      exact ⟨hlo, ha, hv, fun j hj => by cases hj; exact hak, h.2⟩
    · next hak =>
      have hk : k ≠ a := hm (k, w) (by simp)
      rw [cellsWfFrom_cons]
      refine ⟨h.1, h.2.1, h.2.2.1, ih (some k) ?_ (fun x hx => hm x (by simp [hx])) h.2.2.2⟩
      intro j hj; cases hj; omega

/-- Every write keeps the canonical form. -/
theorem cellWrite_wf (d v : Byte) (bound a : Nat) (m : List Host.Cell) (ha : a < bound)
    (h : cellsWf d bound m = true) : cellsWf d bound (cellWrite d m a v) = true := by
  unfold cellWrite
  split
  · exact cellErase_wf d bound a none m h
  · next hv =>
    exact cellInsert_wf d v bound a none _ hv ha (fun j hj => by cases hj) (cellErase_keys m a)
      (cellErase_wf d bound a none m h)

/-- A store within memory keeps the canonical form of memory. -/
theorem storeByte_wf (s : State) (a : Nat) (v : Byte) (ha : a < 65536) (h : Memory.wf s.mem = true) :
    Memory.wf (s.storeByte a v).mem = true := cellWrite_wf resetMem v 65536 a s.mem ha h

/-- `OUT` keeps the canonical form of the ports. -/
theorem portWrite_wf (s : State) (p v : Byte) (h : Ports.wf s.cfg.resetPort s.ports = true) :
    Ports.wf s.cfg.resetPort (s.portWrite p v).ports = true :=
  cellWrite_wf s.cfg.resetPort v 256 p.toNat s.ports p.isLt h

/-- Memory and ports right after reset are in their canonical form, for every setting of the parameters. -/
theorem initial_wf (cfg : Params) :
    Memory.wf (State.initial cfg).mem = true ∧ Ports.wf cfg.resetPort (State.initial cfg).ports = true :=
  ⟨rfl, rfl⟩

/-- The machine's own reset state among them. -/
theorem reset_memory_wf : Memory.wf State.reset.mem = true := rfl

/-! ### Address sets -/

theorem mem_addrInsert (xs : List Nat) (a b : Nat) : b ∈ addrInsert xs a ↔ b ∈ xs ∨ b = a := by
  induction xs with
  | nil => simp [addrInsert]
  | cons x rest ih =>
    simp only [addrInsert]
    split
    · simp only [List.mem_cons]; tauto
    · split
      · next h => subst h; simp only [List.mem_cons]; tauto
      · simp only [List.mem_cons, ih]; tauto

theorem addrsWfFrom_cons (k : Nat) (lower : Option Nat) (xs : List Nat) :
    addrsWfFrom lower (k :: xs) = true ↔ above lower k ∧ k < 65536 ∧ addrsWfFrom (some k) xs = true := by
  cases lower <;> simp [addrsWfFrom, above, and_assoc]

theorem addrInsertFrom_wf (a : Nat) (lo : Option Nat) (xs : List Nat) (ha : a < 65536) (hlo : above lo a)
    (h : addrsWfFrom lo xs = true) : addrsWfFrom lo (addrInsert xs a) = true := by
  induction xs generalizing lo with
  | nil => simp only [addrInsert, addrsWfFrom_cons]; exact ⟨hlo, ha, by simp [addrsWfFrom]⟩
  | cons x rest ih =>
    have hx := (addrsWfFrom_cons x lo rest).1 h
    simp only [addrInsert]
    split
    · next hax =>
      rw [addrsWfFrom_cons, addrsWfFrom_cons]
      exact ⟨hlo, ha, fun j hj => by cases hj; exact hax, hx.2⟩
    · split
      · exact h
      · rw [addrsWfFrom_cons]
        refine ⟨hx.1, hx.2.1, ih (some x) ?_ hx.2.2⟩
        intro j hj; cases hj; omega

/-- Adding an address keeps the canonical form of an address set. -/
theorem addrInsert_wf (xs : List Nat) (a : Nat) (ha : a < 65536) (h : addrsWf xs = true) :
    addrsWf (addrInsert xs a) = true := addrInsertFrom_wf a none xs ha (fun j hj => by cases hj) h

end Sys2Proof.Machine
end

