-- ==== Sys2Proof/Laws/Ops.lean ====
section
/-! SUPPORT. One lemma per shared operation that says everything it can do; later proofs cite it and do not unfold the
operation. -/

namespace Sys2Proof.Machine

/-! ### Outcomes -/

theorem ofExcept_next_iff (x : Except Fault State) (t : State) : ofExcept x = .next t ↔ x = .ok t := by
  cases x <;> simp [ofExcept]

theorem ofExcept_fault_iff (x : Except Fault State) (k : Fault) : ofExcept x = .fault k ↔ x = .error k := by
  cases x <;> simp [ofExcept]

theorem ofExcept_not_refused (x : Except Fault State) (w : Refusal) : ofExcept x ≠ .refused w := by
  cases x <;> simp [ofExcept]

theorem bind_ok_iff {α β : Type} (x : Except Fault α) (f : α → Except Fault β) (b : β) :
    x >>= f = .ok b ↔ ∃ a, x = .ok a ∧ f a = .ok b := by
  cases x <;> simp [bind, Except.bind]

theorem bind_error_iff {α β : Type} (x : Except Fault α) (f : α → Except Fault β) (k : Fault) :
    x >>= f = .error k ↔ x = .error k ∨ ∃ a, x = .ok a ∧ f a = .error k := by
  cases x <;> simp [bind, Except.bind]

/-! ### Addresses (20_memory.md R61 to R65) -/

/-- `effAddr` by cases on the range. -/
theorem effAddr_eq (s : State) (a : Int) :
    effAddr s a = if 0 ≤ a ∧ a < 65536 then .ok a.toNat else outsideAddr s a := by
  cases a with
  | ofNat n =>
    simp only [effAddr, Int.ofNat_eq_natCast]
    by_cases h : n < 65536
    · rw [if_pos h, if_pos ⟨by omega, by omega⟩, Int.toNat_natCast]
    · rw [if_neg h, if_neg (by omega)]
  | negSucc n => rw [if_neg (by omega)]; rfl

/-- An address within range is its own cell. -/
theorem effAddr_inRange (s : State) (a : Int) (h : 0 ≤ a ∧ a < 65536) : effAddr s a = .ok a.toNat := by
  rw [effAddr_eq, if_pos h]

theorem effAddr_word (s : State) (w : Word) : effAddr s w.toNat = .ok w.toNat := by
  have := w.isLt
  exact effAddr_inRange s _ (by omega)

/-- Everything `effAddr` can answer. -/
theorem effAddr_ok_iff (s : State) (a : Int) (x : Nat) :
    effAddr s a = .ok x ↔
      (0 ≤ a ∧ a < 65536 ∧ x = a.toNat) ∨
        (¬ (0 ≤ a ∧ a < 65536) ∧ s.cfg.addrWrap = .wrap ∧ x = (a % 65536).toNat) := by
  rw [effAddr_eq]
  split
  · next h => simp [h, eq_comm]
  · next h =>
    have h1 : 0 ≤ a → a < 65536 → ¬ x = a.toNat := fun h1 h2 => absurd ⟨h1, h2⟩ h
    cases hw : s.cfg.addrWrap <;> simp [h, outsideAddr, hw, raise, eq_comm] <;> intro h2 h3 h4 <;>
      exact absurd h4 (h1 h2 h3)

theorem effAddr_error_iff (s : State) (a : Int) (k : Fault) :
    effAddr s a = .error k ↔
      ¬ (0 ≤ a ∧ a < 65536) ∧ s.cfg.addrWrap = .fault ∧ k = .invalidMemoryAddress (.address a) := by
  rw [effAddr_eq]
  split
  · next h => simp [h]
  · next h => cases hw : s.cfg.addrWrap <;> simp [h, outsideAddr, hw, raise, eq_comm]

/-- The cell is always an address of memory. -/
theorem effAddr_lt (s : State) (a : Int) (x : Nat) (h : effAddr s a = .ok x) : x < 65536 := by
  rcases (effAddr_ok_iff s a x).1 h with h | h <;> omega

/-- Only the parameters decide. -/
theorem effAddr_congr (s t : State) (a : Int) (h : t.cfg = s.cfg) : effAddr t a = effAddr s a := by
  simp only [effAddr_eq, outsideAddr, h]

/-- Everything `slots` can answer. -/
theorem slots_ok_iff (s : State) (a : Int) (x y : Nat) :
    slots s a = .ok (x, y) ↔ effAddr s a = .ok x ∧ effAddr s (a + 1) = .ok y := by
  simp only [slots, bind_ok_iff]
  constructor
  · rintro ⟨u, hu, v, hv, h⟩
    cases h
    exact ⟨hu, hv⟩
  · rintro ⟨hx, hy⟩
    exact ⟨x, hx, y, hy, rfl⟩

theorem slots_error_iff (s : State) (a : Int) (k : Fault) :
    slots s a = .error k ↔ effAddr s a = .error k ∨ ∃ x, effAddr s a = .ok x ∧ effAddr s (a + 1) = .error k := by
  simp only [slots, bind_error_iff]
  constructor
  · rintro (h | ⟨x, hx, h | ⟨y, hy, h⟩⟩)
    · exact .inl h
    · exact .inr ⟨x, hx, h⟩
    · cases h
  · rintro (h | ⟨x, hx, h⟩)
    · exact .inl h
    · exact .inr ⟨x, hx, .inl h⟩

theorem slots_congr (s t : State) (a : Int) (h : t.cfg = s.cfg) : slots t a = slots s a := by
  simp [slots, effAddr_congr s t _ h]

/-- The two cells of a 16-bit access are different. -/
theorem slots_ne (s : State) (a : Int) (x y : Nat) (h : slots s a = .ok (x, y)) : x ≠ y := by
  obtain ⟨hx, hy⟩ := (slots_ok_iff s a x y).1 h
  rcases (effAddr_ok_iff s a x).1 hx with hx | hx <;> rcases (effAddr_ok_iff s (a + 1) y).1 hy with hy | hy <;> omega

theorem slots_lt (s : State) (a : Int) (x y : Nat) (h : slots s a = .ok (x, y)) : x < 65536 ∧ y < 65536 := by
  obtain ⟨hx, hy⟩ := (slots_ok_iff s a x y).1 h
  exact ⟨effAddr_lt s _ _ hx, effAddr_lt s _ _ hy⟩

/-! ### 16-bit accesses -/

/-- Everything `MemRead(a, 2)` can answer. -/
theorem memRead2_ok_iff (s : State) (a : Int) (v : Word) :
    memRead2 s a = .ok v ↔ ∃ x y, slots s a = .ok (x, y) ∧ v = cat (s.byteAt y) (s.byteAt x) := by
  simp only [memRead2, bind_ok_iff]
  constructor
  · rintro ⟨⟨x, y⟩, h, e⟩
    cases e
    exact ⟨x, y, h, rfl⟩
  · rintro ⟨x, y, h, rfl⟩
    exact ⟨(x, y), h, rfl⟩

theorem memRead2_error_iff (s : State) (a : Int) (k : Fault) : memRead2 s a = .error k ↔ slots s a = .error k := by
  simp only [memRead2, bind_error_iff]
  constructor
  · rintro (h | ⟨⟨x, y⟩, h, e⟩)
    · exact h
    · cases e
  · exact .inl

/-- Everything `MemWrite(a, 2, v)` can answer. -/
theorem memWrite2_ok_iff (s t : State) (a : Int) (v : Word) :
    memWrite2 s a v = .ok t ↔
      ∃ x y, slots s a = .ok (x, y) ∧ t = (s.storeByte x (lo v)).storeByte y (hi v) := by
  simp only [memWrite2, bind_ok_iff]
  constructor
  · rintro ⟨⟨x, y⟩, h, e⟩
    cases e
    exact ⟨x, y, h, rfl⟩
  · rintro ⟨x, y, h, rfl⟩
    exact ⟨(x, y), h, rfl⟩

theorem memWrite2_error_iff (s : State) (a : Int) (v : Word) (k : Fault) :
    memWrite2 s a v = .error k ↔ slots s a = .error k := by
  simp only [memWrite2, bind_error_iff]
  constructor
  · rintro (h | ⟨⟨x, y⟩, h, e⟩)
    · exact h
    · cases e
  · exact .inl

/-- Everything `MemRead(a, 1)` can answer. -/
theorem memRead1_ok_iff (s : State) (a : Int) (v : Byte) :
    memRead1 s a = .ok v ↔ ∃ x, effAddr s a = .ok x ∧ v = s.byteAt x := by
  simp only [memRead1, bind_ok_iff]
  constructor
  · rintro ⟨x, h, e⟩
    cases e
    exact ⟨x, h, rfl⟩
  · rintro ⟨x, h, rfl⟩
    exact ⟨x, h, rfl⟩

theorem memRead1_error_iff (s : State) (a : Int) (k : Fault) : memRead1 s a = .error k ↔ effAddr s a = .error k := by
  simp only [memRead1, bind_error_iff]
  constructor
  · rintro (h | ⟨x, h, e⟩)
    · exact h
    · cases e
  · exact .inl

/-! ### The Call Stack (10_state.md R37, R38) and the branch forms -/

/-- Everything `CallPush` can answer. -/
theorem callPush_ok_iff (s t : State) (x : Word) :
    callPush s x = .ok t ↔
      s.callstack.length < s.cfg.callDepthMax ∧ t = { s with callstack := x :: s.callstack } := by
  unfold callPush
  split
  · next h => simp [raise]; omega
  · next h => simp [eq_comm]; omega

/-- Everything `CallPop` can answer. -/
theorem callPop_ok_iff (s t : State) (x : Word) :
    callPop s = .ok (x, t) ↔ ∃ rest, s.callstack = x :: rest ∧ t = { s with callstack := rest } := by
  unfold callPop
  cases h : s.callstack with
  | nil => simp [raise]
  | cons y rest =>
    simp only [Except.ok.injEq, Prod.mk.injEq, List.cons.injEq]
    constructor
    · rintro ⟨rfl, rfl⟩
      exact ⟨rest, ⟨rfl, rfl⟩, rfl⟩
    · rintro ⟨r, ⟨rfl, rfl⟩, rfl⟩
      exact ⟨rfl, rfl⟩

/-- Everything a call of `len` bytes can answer. -/
theorem callTo_ok_iff (len a16 : Word) (s t : State) :
    callTo len a16 s = .ok t ↔
      s.callstack.length < s.cfg.callDepthMax
        ∧ t = { s with callstack := (s.pc + len) :: s.callstack, pc := a16 } := by
  simp only [callTo, bind_ok_iff, callPush_ok_iff]
  constructor
  · rintro ⟨u, ⟨h, rfl⟩, e⟩
    cases e
    exact ⟨h, rfl⟩
  · rintro ⟨h, rfl⟩
    exact ⟨_, ⟨h, rfl⟩, rfl⟩

/-- Everything a return can answer. -/
theorem returnFrom_ok_iff (s t : State) :
    returnFrom s = .ok t ↔ ∃ x rest, s.callstack = x :: rest ∧ t = { s with callstack := rest, pc := x } := by
  simp only [returnFrom, bind_ok_iff]
  constructor
  · rintro ⟨⟨x, u⟩, h, e⟩
    obtain ⟨rest, hr, rfl⟩ := (callPop_ok_iff s u x).1 h
    cases e
    exact ⟨x, rest, hr, rfl⟩
  · rintro ⟨x, rest, h, rfl⟩
    exact ⟨(x, _), (callPop_ok_iff s _ x).2 ⟨rest, h, rfl⟩, rfl⟩

/-- Everything a conditional form can answer with a next state (44_branch.md R311). -/
theorem whenTaken_next_iff (ccc : Cond) (len : Word) (taken : State → Except Fault State) (s t : State) :
    whenTaken ccc len taken s = .next t ↔
      (cond s.f ccc = true ∧ taken s = .ok t) ∨ (cond s.f ccc = false ∧ t = s.setPc (s.pc + len)) := by
  unfold whenTaken
  cases h : cond s.f ccc
  · simp [eq_comm]
  · simp [ofExcept_next_iff]

/-- Everything `EI`, `DI`, `RIM`, `SIM` can answer with a next state (30_encoding.md R100). -/
theorem interruptOp_next_iff (op : Byte) (effect : State → State) (s t : State) :
    interruptOp op effect s = .next t ↔ s.cfg.interruptOps = .nop ∧ t = effect s := by
  unfold interruptOp
  cases h : s.cfg.interruptOps <;> simp [ofExcept, raise, eq_comm]

/-- Everything an undefined byte can answer with a next state (46_machine_control.md R389, R390). -/
theorem execUndefined_next_iff (op : Byte) (s t : State) :
    execUndefined op s = .next t ↔ s.cfg.resetOpcode = some op ∧ t = resetInstruction s := by
  unfold execUndefined
  split
  · next h => simp [h, eq_comm]
  · next h => simp [h, ofExcept, raise]

end Sys2Proof.Machine
end

