-- ==== Sys2Proof/Laws/Engine.lean ====
section
/-! SUPPORT. What one step can do: the inversion lemmas of the fetch, the linear step, the block step and `step`. -/

namespace Sys2Proof.Machine

@[simp] theorem countStep_cfg (s : State) : (countStep s).cfg = s.cfg := rfl
@[simp] theorem countStep_steps (s : State) : (countStep s).steps = s.steps + 1 := rfl
@[simp] theorem countStep_pc (s : State) : (countStep s).pc = s.pc := rfl
@[simp] theorem countStep_f (s : State) : (countStep s).f = s.f := rfl
@[simp] theorem countStep_istart (s : State) : (countStep s).istart = s.istart := rfl
@[simp] theorem countStep_block (s : State) : (countStep s).block = s.block := rfl
@[simp] theorem countStep_halted (s : State) : (countStep s).halted = s.halted := rfl
@[simp] theorem countStep_byteAt (s : State) (a : Nat) : (countStep s).byteAt a = s.byteAt a := rfl

/-- The budget check passes exactly within the budget (40_engine.md R173). -/
theorem checkBudget_ok_iff (p : Place) (s : State) : checkBudget p s = .ok () ↔ s.steps ≤ s.cfg.stepLimit := by
  unfold checkBudget
  split
  · simp [raise]; omega
  · simp; omega

/-- The presence check passes exactly where an instruction is present (40_engine.md R174). -/
theorem checkPresence_ok_iff (s : State) : checkPresence s = .ok () ↔ present s s.pc = true := by
  unfold checkPresence
  split <;> simp_all [raise]

/-- A fetch that passes its checks. -/
theorem fetchChecked_ok_iff (s : State) (i : Instr) :
    fetchChecked s = .ok i ↔ s.steps ≤ s.cfg.stepLimit ∧ present s s.pc = true ∧ fetch s = .ok i := by
  rw [← checkBudget_ok_iff (.pc s.pc), ← checkPresence_ok_iff]
  simp only [fetchChecked, bind_ok_iff]
  exact ⟨fun ⟨_, h1, _, h2, h3⟩ => ⟨h1, h2, h3⟩, fun ⟨h1, h2, h3⟩ => ⟨(), h1, (), h2, h3⟩⟩

/-- What a fetched instruction is: the decoding of the byte at `pc` with two bytes after it. -/
theorem fetch_ok (s : State) (i : Instr) (h : fetch s = .ok i) :
    ∃ b1 b2, i = decodeInstr (s.byteAt s.pc.toNat) b1 b2 := by
  unfold fetch at h
  simp only at h
  split at h
  · cases h; exact ⟨_, _, rfl⟩
  · obtain ⟨b1, -, e⟩ := (bind_ok_iff _ _ _).1 h
    cases e; exact ⟨_, _, rfl⟩
  · obtain ⟨b1, -, h⟩ := (bind_ok_iff _ _ _).1 h
    obtain ⟨b2, -, e⟩ := (bind_ok_iff _ _ _).1 h
    cases e; exact ⟨_, _, rfl⟩

/-- Everything a linear step can do with a next state (40_engine.md R180). -/
theorem linearStep_next (s t : State) (h : linearStep s = .next t) :
    ∃ i u, s.steps + 1 ≤ s.cfg.stepLimit ∧ present s s.pc = true ∧ fetch (countStep s) = .ok i
      ∧ exec i (countStep s) = .next u ∧ t = advance i u := by
  unfold linearStep at h
  split at h
  · cases h
  · next i hi =>
    obtain ⟨h1, h2, h3⟩ := (fetchChecked_ok_iff _ i).1 hi
    unfold advanceOutcome at h
    split at h
    · next u hu => cases h; exact ⟨i, u, h1, h2, h3, hu, rfl⟩
    · cases h
    · cases h

/-- Everything a block step can do with a next state (47_block_mode.md R405). -/
theorem blockStep_next (b : BlockRun) (s t : State) (h : blockStep b s = .next t) :
    ∃ word c, s.steps + 1 ≤ s.cfg.stepLimit ∧ runLine b word c (countStep s) = .next t := by
  unfold blockStep at h
  split at h
  · cases h
  · next word c hf =>
    refine ⟨word, c, ?_, h⟩
    simp only [fetchLine, bind_ok_iff] at hf
    obtain ⟨_, hb, _⟩ := hf
    exact (checkBudget_ok_iff _ (countStep s)).1 hb

/-- The step of a run that has not ended. -/
theorem step_next (s t : State) (h : step s = .next t) :
    s.halted = false ∧ ((s.block = none ∧ linearStep s = .next t) ∨ ∃ b, s.block = some b ∧ blockStep b s = .next t) := by
  unfold step at h
  split at h
  · cases h
  · next hh =>
    refine ⟨by simpa using hh, ?_⟩
    split at h
    · next hb => exact .inl ⟨hb, h⟩
    · next b hb => exact .inr ⟨b, hb, h⟩

end Sys2Proof.Machine
end

