-- ==== Sys2Proof/Laws/Block.lean ====
section
/-! SUPPORT. What the validator gives for a block line, and the step of a run in block mode as the run of its checked line,
so that no proof unfolds the fetch of a line. -/

namespace Sys2Proof.Machine

/-! ### Text -/

/-- A text without blanks is its own trimming (35_assembler.md R121). -/
theorem trim_eq_self (t : Text) (h : ∀ c ∈ t, isBlank c = false) : trim t = t := by
  have keep : ∀ l : Text, (∀ c ∈ l, isBlank c = false) → l.dropWhile isBlank = l := by
    intro l hl
    cases l with
    | nil => rfl
    | cons c r => simp [List.dropWhile, hl c (by simp)]
  unfold trim
  rw [keep t h, keep _ (by simpa using h), List.reverse_reverse]

/-- A blank is no character of an identifier. -/
theorem isBlank_of_isIdentChar (c : Char) (h : isIdentChar c = true) : isBlank c = false := by
  rw [Bool.eq_false_iff]
  intro hb
  simp only [isBlank, Bool.or_eq_true, beq_iff_eq] at hb
  rcases hb with (rfl | rfl) | rfl <;> revert h <;> decide

/-- Every character of an identifier is one of R121's. -/
theorem isIdent_chars (t : Text) (h : isIdent t = true) : ∀ c ∈ t, isIdentChar c = true := by
  cases t with
  | nil => simp
  | cons c r =>
    simp only [isIdent, Bool.and_eq_true, List.all_eq_true] at h
    intro d hd
    rcases List.mem_cons.1 hd with rfl | hd
    · have := h.1
      simp only [isIdentStart, Bool.or_eq_true] at this
      simp only [isIdentChar, Bool.or_eq_true]
      tauto
    · exact h.2 d hd

/-- What an identifier is as an operand: not empty, one token, its own trimming. -/
theorem isIdent_token (t : Text) (h : isIdent t = true) : t ≠ [] ∧ t.contains ',' = false ∧ trim t = t := by
  refine ⟨?_, ?_, trim_eq_self t fun c hc => isBlank_of_isIdentChar c (isIdent_chars t h c hc)⟩
  · rintro rfl
    simp [isIdent] at h
  · rw [Bool.eq_false_iff]
    intro hq
    have := isIdent_chars t h ',' (by simpa using hq)
    revert this
    decide

/-- A hexadecimal digit reads back, and is neither a blank nor a separator. -/
theorem hexChar_spec :
    ∀ n : BitVec 4, hexDigit (hexChar n) = some n ∧ isBlank (hexChar n) = false ∧ hexChar n ≠ ',' := by decide

/-- The value of a number with one more hexadecimal digit. -/
theorem append_digit_toNat (n : Nat) (a : BitVec n) (d : BitVec 4) : (a ++ d).toNat = a.toNat * 16 + d.toNat := by
  rw [BitVec.toNat_append, ← Nat.shiftLeft_add_eq_or_of_lt d.isLt, Nat.shiftLeft_eq]

/-- The text of a word reads back as that word (35_assembler.md R131). -/
theorem literal16_text16 (w : Word) : literal16 (text16 w) = some w := by
  simp only [text16, literal16, (hexChar_spec _).1, Option.some.injEq]
  apply BitVec.eq_of_toNat_eq
  have := w.isLt
  simp only [append_digit_toNat, BitVec.extractLsb'_toNat, Nat.shiftRight_eq_div_pow]
  omega

/-- What the text of a word is as an operand. -/
theorem text16_token (w : Word) : text16 w ≠ [] ∧ (text16 w).contains ',' = false ∧ trim (text16 w) = text16 w := by
  refine ⟨by simp [text16], ?_, trim_eq_self _ ?_⟩
  · simp [text16, Ne.symm (hexChar_spec _).2.2]
  · intro c hc
    simp only [text16, List.mem_cons, List.not_mem_nil, or_false] at hc
    rcases hc with rfl | rfl | rfl | rfl | rfl
    · exact (hexChar_spec _).2.1
    · exact (hexChar_spec _).2.1
    · exact (hexChar_spec _).2.1
    · exact (hexChar_spec _).2.1
    · decide

/-! ### Checked lines -/

/-- The lookup of a word of the table. -/
theorem lookupForm_of_find (cfg : Params) (word : Text) (row : Text × Form)
    (h : (forms cfg).find? (fun x => x.1 == word) = some row) : lookupForm cfg word = some row.2 := by
  simp [lookupForm, h]

/-- The lookup of `RESET_MNEMONIC` (46_machine_control.md R389). -/
theorem lookupForm_reset (cfg : Params) (word : Text) (hw : cfg.resetMnemonic = some word)
    (h : (forms cfg).find? (fun x => x.1 == word) = none) : lookupForm cfg word = some .reset := by
  simp [lookupForm, h, hw]

/-- A 16-bit position that holds an identifier that is no literal (35_assembler.md R133). -/
theorem checkAddr_label (cfg : Params) (pos : Nat) (name : Text) (h : isIdent name = true) (hl : literal16 name = none) :
    checkAddr cfg pos name = .ok (.label name) := by
  simp [checkAddr, (isIdent_token name h).1, hl, h]

/-- A 16-bit position that holds a literal within the memory map. -/
theorem checkAddr_literal (cfg : Params) (pos : Nat) (w : Word) (h : inMap cfg w.toNat = true) :
    checkAddr cfg pos (text16 w) = .ok (.literal w (text16 w)) := by
  simp [checkAddr, (text16_token w).1, literal16_text16, h]

/-- A line with one 16-bit operand, given what that operand is. -/
theorem checkForm_addr (cfg : Params) (mk : Word → Instr) (ops : Text) (a : AddrToken) (hc : ops.contains ',' = false)
    (ht : trim ops = ops) (ha : checkAddr cfg 1 ops = .ok a) : checkForm cfg (.addr mk) ops = .ok (.withAddr mk 1 a) := by
  simp only [checkForm, arity1, hc, ht]
  simp only [Bool.false_eq_true, if_false, bind, Except.bind, ha, pure, Except.pure]

/-- A line of one 16-bit operand that holds an identifier (35_assembler.md R133). -/
theorem checkLine_label (cfg : Params) (word name : Text) (mk : Word → Instr) (h : lookupForm cfg word = some (.addr mk))
    (hi : isIdent name = true) (hl : literal16 name = none) :
    checkLine cfg word name = .ok (.withAddr mk 1 (.label name)) := by
  simp only [checkLine, h]
  exact checkForm_addr _ _ _ _ (isIdent_token name hi).2.1 (isIdent_token name hi).2.2 (checkAddr_label _ _ _ hi hl)

/-- A line of one 16-bit operand that holds a literal within the memory map. -/
theorem checkLine_literal (cfg : Params) (word : Text) (mk : Word → Instr) (w : Word)
    (h : lookupForm cfg word = some (.addr mk)) (hm : inMap cfg w.toNat = true) :
    checkLine cfg word (text16 w) = .ok (.withAddr mk 1 (.literal w (text16 w))) := by
  simp only [checkLine, h]
  exact checkForm_addr _ _ _ _ (text16_token w).2.1 (text16_token w).2.2 (checkAddr_literal _ _ _ hm)

/-- A line without operands. -/
theorem checkLine_none (cfg : Params) (word : Text) (i : Instr) (h : lookupForm cfg word = some (.none0 i)) :
    checkLine cfg word [] = .ok (.plain i) := by
  simp only [checkLine, h]
  rfl

/-! ### What a checked line does -/

/-- A jump line: its target where the condition holds (47_block_mode.md R407). -/
theorem runLine_jump (b : BlockRun) (word : Text) (mk : Word → Instr) (pos : Nat) (a : AddrToken) (s : State)
    (ccc : Option Cond) (h : blockClass (mk 0) = .jump ccc) :
    runLine b word (.withAddr mk pos a) s = ofExcept (actOn b
      (if condHolds s.f ccc then .target (targetName a) false else .notTaken) (targetIsLabel a) s) := by
  simp only [runLine, Checked.blockClass, h]
  rfl

/-- A call line (47_block_mode.md R408). -/
theorem runLine_call (b : BlockRun) (word : Text) (mk : Word → Instr) (pos : Nat) (a : AddrToken) (s : State)
    (ccc : Option Cond) (h : blockClass (mk 0) = .call ccc) :
    runLine b word (.withAddr mk pos a) s = ofExcept (actOn b
      (if condHolds s.f ccc then .target (targetName a) true else .notTaken) (targetIsLabel a) s) := by
  simp only [runLine, Checked.blockClass, h]
  rfl

/-- A return line (47_block_mode.md R409). -/
theorem runLine_ret (b : BlockRun) (word : Text) (i : Instr) (s : State) (ccc : Option Cond)
    (h : blockClass i = .ret ccc) :
    runLine b word (.plain i) s = ofExcept (actOn b (if condHolds s.f ccc then .ret else .notTaken) true s) := by
  simp only [runLine, Checked.blockClass, h]
  rfl

/-- A line with a label as a data address: there is no Label Table of addresses (47_block_mode.md R403). -/
theorem runLine_dataLabel (b : BlockRun) (word : Text) (mk : Word → Instr) (pos : Nat) (name : Text) (s : State)
    (h : blockClass (mk 0) = .ordinary) :
    runLine b word (.withAddr mk pos (.label name)) s = .fault (.undefinedLabel name) := by
  simp only [runLine, Checked.blockClass, h]
  rfl

/-! ### The step -/

/-- A step in block mode, within the budget, at a line that passes the validator (47_block_mode.md R405). -/
theorem step_line (s : State) (b : BlockRun) (line : Line) (c : Checked) (hh : s.halted = false) (hb : s.block = some b)
    (hs : s.steps < s.cfg.stepLimit) (hl : (blockLines b b.cur)[b.idx]? = some line)
    (hc : checkLine s.cfg line.mnemonic line.operands = .ok c) : step s = runLine b line.mnemonic c (countStep s) := by
  have hbud : checkBudget (.cursor b.cur b.idx) (countStep s) = .ok () := (checkBudget_ok_iff _ _).2 hs
  have hf : fetchLine b (countStep s) = .ok (line.mnemonic, c) := by
    simp only [fetchLine, hbud, hl, countStep_cfg, hc, bind, Except.bind, pure, Except.pure]
  simp only [step, hh, hb, blockStep, hf, Bool.false_eq_true, if_false]

/-- A step in block mode at a line that fails the validator. -/
theorem step_line_error (s : State) (b : BlockRun) (line : Line) (e : ValError) (hh : s.halted = false)
    (hb : s.block = some b) (hs : s.steps < s.cfg.stepLimit) (hl : (blockLines b b.cur)[b.idx]? = some line)
    (hc : checkLine s.cfg line.mnemonic line.operands = .error e) : step s = .fault e.kind := by
  have hbud : checkBudget (.cursor b.cur b.idx) (countStep s) = .ok () := (checkBudget_ok_iff _ _).2 hs
  have hf : fetchLine b (countStep s) = .error e.kind := by
    simp only [fetchLine, hbud, hl, countStep_cfg, hc, bind, Except.bind, raise]
  simp only [step, hh, hb, blockStep, hf, Bool.false_eq_true, if_false]

end Sys2Proof.Machine
end

