-- ==== Sys2Proof/Laws/Frames.lean ====
section
/-! SUPPORT. The frame `Only` of each primitive update, and how frames compose and weaken, so that an instruction's frame
is assembled and not unfolded. -/

namespace Sys2Proof.Machine

/-- What two updates in a row write. -/
def Writes.join (v w : Writes) : Writes where
  regs := v.regs ++ w.regs
  mem := v.mem ++ w.mem
  ports := v.ports ++ w.ports
  pc := v.pc || w.pc
  sp := v.sp || w.sp
  flags := v.flags || w.flags
  calls := v.calls || w.calls
  halted := v.halted || w.halted

theorem only_refl (s : State) : Only {} s s := by simp [Only]

/-- Frames compose. -/
theorem only_trans (v w : Writes) (s t u : State) (h1 : Only v s t) (h2 : Only w t u) : Only (v.join w) s u := by
  obtain ⟨a1, a2, a3, a4, a5, a6, a7, a8, a9, a10, a11, a12, a13, a14, a15, a16⟩ := h1
  obtain ⟨b1, b2, b3, b4, b5, b6, b7, b8, b9, b10, b11, b12, b13, b14, b15, b16⟩ := h2
  simp only [Only, Writes.join, List.mem_append, not_or, Bool.or_eq_false_iff]
  exact ⟨fun x hx => (b1 x hx.2).trans (a1 x hx.1), fun a ha => (b2 a ha.2).trans (a2 a ha.1),
    fun a => by rw [b3, a3]; exact or_assoc, fun p hp => (b4 p hp.2).trans (a4 p hp.1),
    fun h => (b5 h.2).trans (a5 h.1), fun h => (b6 h.2).trans (a6 h.1), fun h => (b7 h.2).trans (a7 h.1),
    fun h => (b8 h.2).trans (a8 h.1), fun h => (b9 h.2).trans (a9 h.1), b10.trans a10, b11.trans a11, b12.trans a12,
    b13.trans a13, b14.trans a14, b15.trans a15,
    fun h => (b16 (List.append_eq_nil_iff.1 h).2).trans (a16 (List.append_eq_nil_iff.1 h).1)⟩

/-- A frame may name more registers, ports and fields than are written, and the same addresses in another order. -/
theorem only_weaken (v w : Writes) (s t : State) (h : Only v s t) (hr : ∀ x ∈ v.regs, x ∈ w.regs)
    (hm : ∀ a, a ∈ v.mem ↔ a ∈ w.mem) (hp : ∀ p ∈ v.ports, p ∈ w.ports) (hpc : w.pc = false → v.pc = false)
    (hsp : w.sp = false → v.sp = false) (hf : w.flags = false → v.flags = false)
    (hc : w.calls = false → v.calls = false) (hh : w.halted = false → v.halted = false) : Only w s t := by
  obtain ⟨a1, a2, a3, a4, a5, a6, a7, a8, a9, a10, a11, a12, a13, a14, a15, a16⟩ := h
  exact ⟨fun x hx => a1 x (fun h => hx (hr x h)), fun a ha => a2 a (fun h => ha ((hm a).1 h)),
    fun a => by rw [a3, hm], fun p hq => a4 p (fun h => hq (hp p h)), fun h => a5 (hpc h), fun h => a6 (hsp h),
    fun h => a7 (hf h), fun h => a8 (hc h), fun h => a9 (hh h), a10, a11, a12, a13, a14, a15,
    fun h => a16 (List.eq_nil_iff_forall_not_mem.2 fun a ha => by simpa [h] using (hm a).1 ha)⟩

theorem only_setReg (s : State) (x : Reg) (v : Byte) : Only { regs := [x] } s (s.setReg x v) := by
  simp +contextual [Only]

theorem only_setFlags (s : State) (f : Flags) : Only { flags := true } s (s.setFlags f) := by simp [Only]

theorem only_setCy (s : State) (b : Bool) : Only { flags := true } s (s.setCy b) := by simp [Only]

theorem only_setPc (s : State) (w : Word) : Only { pc := true } s (s.setPc w) := by simp [Only]

theorem only_setSp (s : State) (w : Word) : Only { sp := true } s (s.setSp w) := by simp [Only]

theorem only_setPair (s : State) (p : Pair) (v : Word) :
    Only { regs := [Pair.hiReg p, Pair.loReg p] } s (s.setPair p v) :=
  only_trans _ _ _ _ _ (only_setReg s _ _) (only_setReg _ _ _)

theorem only_storeByte (s : State) (a : Nat) (v : Byte) : Only { mem := [a] } s (s.storeByte a v) := by
  simp +contextual [Only, mem_addrInsert]

theorem only_portWrite (s : State) (p v : Byte) : Only { ports := [p] } s (s.portWrite p v) := by
  simp +contextual [Only]

/-- A 16-bit store writes its two bytes. -/
theorem only_store2 (s : State) (x y : Nat) (v w : Byte) :
    Only { mem := [x, y] } s ((s.storeByte x v).storeByte y w) :=
  only_trans _ _ _ _ _ (only_storeByte s _ _) (only_storeByte _ _ _)

end Sys2Proof.Machine
end

