-- ==== Sys2Proof/Laws/Exec.lean ====
section
/-! SUPPORT. The frame of every instruction, said once: what each may write, and that its meaning writes nothing else. -/

namespace Sys2Proof.Machine

/-! ### What each instruction may write -/

/-- The two addresses of a 16-bit access, none where it faults. -/
def slotCells (s : State) (a : Int) : List Nat :=
  match slots s a with
  | .ok (x, y) => [x, y]
  | .error _ => []

/-- What writing an operand of {registers, M} writes. -/
def RegM.writes (s : State) : RegM → Writes
  | .reg r => { regs := [r] }
  | .m => { mem := [s.hlAddr] }

/-- What `POP` to an operand writes. -/
def PairPsw.writes : PairPsw → Writes
  | .pair p => { regs := [Pair.hiReg p, Pair.loReg p], sp := true }
  | .psw => { regs := [.a], flags := true, sp := true }

/-- What an instruction may write in a state, but for the reset instruction. -/
def Instr.writes (s : State) : Instr → Writes
  | .mov d _ | .mvi d _ => RegM.writes s d
  | .lxi p _ | .inx p | .dcx p => PairSp.writes p
  | .lda _ | .ldax _ | .cma | .in_ _ | .rim => { regs := [.a] }
  | .sta w => { mem := [w.toNat] }
  | .stax p => { mem := [(s.readPairBD p).toNat] }
  | .lhld _ => { regs := [.h, .l] }
  | .shld w => { mem := slotCells s w.toNat }
  | .xchg => { regs := [.h, .l, .d, .e] }
  | .add _ | .adi _ | .adc _ | .aci _ | .sub _ | .sui _ | .sbb _ | .sbi _ | .daa => { regs := [.a], flags := true }
  | .ana _ | .ani _ | .xra _ | .xri _ | .ora _ | .ori _ | .rlc | .rrc | .ral | .rar => { regs := [.a], flags := true }
  | .cmp _ | .cpi _ | .cmc | .stc => { flags := true }
  | .inr d | .dcr d => { RegM.writes s d with flags := true }
  | .dad _ => { regs := [.h, .l], flags := true }
  | .jmp _ | .jnz _ | .jz _ | .jnc _ | .jc _ | .jpo _ | .jpe _ | .jp _ | .jm _ | .pchl => { pc := true }
  | .call _ | .cnz _ | .cz _ | .cnc _ | .cc _ | .cpo _ | .cpe _ | .cp _ | .cm _ => { pc := true, calls := true }
  | .ret | .rnz | .rz | .rnc | .rc | .rpo | .rpe | .rp | .rm | .rst _ => { pc := true, calls := true }
  | .push _ => { mem := slotCells s (pushAddr s), sp := true }
  | .pop p => PairPsw.writes p
  | .xthl => { regs := [.h, .l], mem := slotCells s s.sp.toNat }
  | .sphl => { sp := true }
  | .out p => { ports := [p] }
  | .hlt => { halted := true }
  | .nop | .ei | .di | .sim | .undefined _ => {}

/-! ### The frames of the shared updates -/

theorem only_writePairSp (s : State) (rp : PairSp) (w : Word) : Only (PairSp.writes rp) s (s.writePairSp rp w) := by
  cases rp with
  | pair p => exact only_setPair s p w
  | sp => exact only_setSp s w

theorem only_writeRM (s : State) (d : RegM) (v : Byte) : Only (RegM.writes s d) s (s.writeRM d v) := by
  cases d with
  | reg x => exact only_setReg s x v
  | m => exact only_storeByte s _ v

theorem only_writeRM_flags (s : State) (d : RegM) (v : Byte) (f : Flags) :
    Only { RegM.writes s d with flags := true } s ((s.writeRM d v).setFlags f) := by
  refine only_weaken _ _ _ _ (only_trans _ _ _ _ _ (only_writeRM s d v) (only_setFlags _ f)) ?_ ?_ ?_ ?_ ?_ ?_ ?_ ?_
    <;> cases d <;> simp [Writes.join, RegM.writes]

theorem only_setA_setFlags (s : State) (v : Byte) (f : Flags) :
    Only { regs := [.a], flags := true } s ((s.setReg .a v).setFlags f) :=
  only_trans _ _ _ _ _ (only_setReg _ _ _) (only_setFlags _ _)

theorem only_setA_setCy (s : State) (v : Byte) (b : Bool) :
    Only { regs := [.a], flags := true } s ((s.setReg .a v).setCy b) :=
  only_trans _ _ _ _ _ (only_setReg _ _ _) (only_setCy _ _)

theorem only_subFrom (s : State) (v : Byte) (bin : Bool) :
    Only { regs := [.a], flags := true } s (subFrom s v bin) := by
  refine only_weaken _ _ _ _ (only_trans _ _ _ _ _ (only_setFlags s _) (only_setReg _ _ _)) ?_ ?_ ?_ ?_ ?_ ?_ ?_ ?_
    <;> simp [Writes.join]

theorem only_popInto (s : State) (p : PairPsw) (v w : Word) :
    Only (PairPsw.writes p) s ((s.writePairPsw p v).setSp w) := by
  cases p with
  | pair p => exact only_trans _ _ _ _ _ (only_setPair _ _ _) (only_setSp _ _)
  | psw => exact only_trans _ _ _ _ _ (only_trans _ _ _ _ _ (only_setReg _ _ _) (only_setFlags _ _)) (only_setSp _ _)

theorem only_callTo (len a : Word) (s t : State) (h : callTo len a s = .ok t) :
    Only { pc := true, calls := true } s t := by
  obtain ⟨-, rfl⟩ := (callTo_ok_iff _ _ _ _).1 h
  simp [Only, State.reg, State.byteAt, State.portRead]

theorem only_returnFrom (s t : State) (h : returnFrom s = .ok t) : Only { pc := true, calls := true } s t := by
  obtain ⟨_, _, _, rfl⟩ := (returnFrom_ok_iff _ _).1 h
  simp [Only, State.reg, State.byteAt, State.portRead]

theorem only_jumpTo (a : Word) (s t : State) (h : jumpTo a s = .ok t) : Only { pc := true } s t := by
  cases h
  exact only_setPc _ _

theorem only_whenTaken (ccc : Cond) (len : Word) (taken : State → Except Fault State) (w : Writes) (s t : State)
    (hpc : w.pc = true) (hm : w.mem = []) (h : whenTaken ccc len taken s = .next t)
    (ht : ∀ u, taken s = .ok u → Only w s u) : Only w s t := by
  rcases (whenTaken_next_iff _ _ _ _ _).1 h with ⟨-, h⟩ | ⟨-, rfl⟩
  · exact ht _ h
  · refine only_weaken _ _ _ _ (only_setPc _ _) ?_ ?_ ?_ ?_ ?_ ?_ ?_ ?_ <;> simp [hpc, hm]

theorem only_halted (s : State) : Only { halted := true } s { s with halted := true } := by
  simp [Only, State.reg, State.byteAt, State.portRead]

/-! ### The frames of the 16-bit accesses -/

/-- Everything `LHLD` can do with a next state. -/
theorem execLhld_next (w : Word) (s t : State) (h : execLhld w s = .next t) :
    ∃ v, memRead2 s w.toNat = .ok v ∧ t = s.setPair .h v := by
  unfold execLhld at h
  generalize hm : memRead2 s w.toNat = x at h
  cases x with
  | error k => cases h
  | ok v => exact ⟨v, rfl, (Host.Outcome.next.inj h).symm⟩

theorem execLhld_only (w : Word) (s t : State) (h : execLhld w s = .next t) : Only { regs := [.h, .l] } s t :=
  (execLhld_next w s t h).elim fun v hv => hv.2 ▸ only_setPair s .h v

/-- `MemWrite(a, 2, v)` writes its two bytes. -/
theorem only_memWrite2 (s t : State) (a : Int) (v : Word) (h : memWrite2 s a v = .ok t) :
    Only { mem := slotCells s a } s t := by
  obtain ⟨x, y, hs, rfl⟩ := (memWrite2_ok_iff _ _ _ _).1 h
  simp only [slotCells, hs]
  exact only_store2 _ _ _ _ _

theorem execShld_only (w : Word) (s t : State) (h : execShld w s = .next t) :
    Only { mem := slotCells s w.toNat } s t :=
  only_memWrite2 s t _ _ ((ofExcept_next_iff _ t).1 h)

/-- A store and then a write of `sp`. -/
theorem only_mem_sp (l : List Nat) (s t : State) (w : Word) (h : Only { mem := l } s t) :
    Only { mem := l, sp := true } s (t.setSp w) :=
  only_weaken _ _ _ _ (only_trans _ _ _ _ _ h (only_setSp t w)) (by simp [Writes.join]) (by simp [Writes.join])
    (by simp [Writes.join]) (by simp [Writes.join]) (by simp [Writes.join]) (by simp [Writes.join])
    (by simp [Writes.join]) (by simp [Writes.join])

/-- A store and then a write of HL. -/
theorem only_mem_hl (l : List Nat) (s t : State) (w : Word) (h : Only { mem := l } s t) :
    Only { regs := [.h, .l], mem := l } s (t.setPair .h w) :=
  only_weaken _ _ _ _ (only_trans _ _ _ _ _ h (only_setPair t .h w)) (by simp [Writes.join, Pair.hiReg, Pair.loReg])
    (by simp [Writes.join]) (by simp [Writes.join]) (by simp [Writes.join]) (by simp [Writes.join])
    (by simp [Writes.join]) (by simp [Writes.join]) (by simp [Writes.join])

/-- Everything `PUSH` can do with a next state. -/
theorem execPush_next (rp : PairPsw) (s t : State) (h : execPush rp s = .next t) :
    ∃ u, memWrite2 s (pushAddr s) (s.readPairPsw rp) = .ok u ∧ t = u.setSp (s.sp - 2) := by
  unfold execPush at h
  generalize hm : memWrite2 s (pushAddr s) (s.readPairPsw rp) = x at h
  cases x with
  | error k => cases h
  | ok u => exact ⟨u, rfl, (Host.Outcome.next.inj h).symm⟩

theorem execPush_only (rp : PairPsw) (s t : State) (h : execPush rp s = .next t) :
    Only { mem := slotCells s (pushAddr s), sp := true } s t :=
  (execPush_next rp s t h).elim fun u hu =>
    hu.2 ▸ only_mem_sp _ s u _ (only_memWrite2 s u _ _ hu.1)

/-- Everything `POP` can do with a next state. -/
theorem execPop_next (rp : PairPsw) (s t : State) (h : execPop rp s = .next t) :
    ∃ v, memRead2 s s.sp.toNat = .ok v ∧ t = (s.writePairPsw rp v).setSp (s.sp + 2) := by
  unfold execPop at h
  generalize hm : memRead2 s s.sp.toNat = x at h
  cases x with
  | error k => cases h
  | ok v => exact ⟨v, rfl, (Host.Outcome.next.inj h).symm⟩

theorem execPop_only (rp : PairPsw) (s t : State) (h : execPop rp s = .next t) : Only (PairPsw.writes rp) s t :=
  (execPop_next rp s t h).elim fun v hv => hv.2 ▸ only_popInto s rp v _

/-- Everything `XTHL` can do with a next state. -/
theorem execXthl_next (s t : State) (h : execXthl s = .next t) :
    ∃ v u, memRead2 s s.sp.toNat = .ok v ∧ memWrite2 s s.sp.toNat (s.pair .h) = .ok u ∧ t = u.setPair .h v := by
  unfold execXthl at h
  generalize hm : memRead2 s s.sp.toNat = x at h
  generalize hw : memWrite2 s s.sp.toNat (s.pair .h) = y at h
  cases x with
  | error k => cases h
  | ok v =>
    cases y with
    | error k => cases h
    | ok u => exact ⟨v, u, rfl, rfl, (Host.Outcome.next.inj h).symm⟩

theorem execXthl_only (s t : State) (h : execXthl s = .next t) :
    Only { regs := [.h, .l], mem := slotCells s s.sp.toNat } s t :=
  (execXthl_next s t h).elim fun v h => h.elim fun u hu =>
    hu.2.2 ▸ only_mem_hl _ s u v (only_memWrite2 s u _ _ hu.2.1)

/-! ### Every instruction -/

/-- A next state differs from the state before at most in what the instruction may write. -/
theorem exec_only (i : Instr) (s t : State) (hu : isUndefined i = false) (h : exec i s = .next t) :
    Only (Instr.writes s i) s t := by
  cases i <;> simp only [isUndefined, Bool.true_eq_false] at hu <;> simp only [exec, Instr.writes] at h ⊢
  case lhld w => exact execLhld_only w s t h
  case shld w => exact execShld_only w s t h
  case push rp => exact execPush_only rp s t h
  case pop rp => exact execPop_only rp s t h
  case xthl => exact execXthl_only s t h
  case xchg => cases h; exact only_trans _ _ _ _ _ (only_setPair _ .h _) (only_setPair _ .d _)
  case dad rp => cases h; exact only_trans _ _ _ _ _ (only_setPair _ .h _) (only_setCy _ _)
  case hlt => cases h; exact only_halted s
  all_goals first
    | exact only_whenTaken _ _ _ _ _ _ rfl rfl h (fun u hu => only_jumpTo _ _ _ hu)
    | exact only_whenTaken _ _ _ _ _ _ rfl rfl h (fun u hu => only_callTo _ _ _ _ hu)
    | exact only_whenTaken _ _ _ _ _ _ rfl rfl h (fun u hu => only_returnFrom _ _ hu)
    | exact only_callTo _ _ _ _ ((ofExcept_next_iff _ _).1 h)
    | exact only_returnFrom _ _ ((ofExcept_next_iff _ _).1 h)
    | exact only_jumpTo _ _ _ ((ofExcept_next_iff _ _).1 h)
    | (obtain ⟨-, rfl⟩ := (interruptOp_next_iff _ _ _ _).1 h; first | exact only_refl _ | exact only_setReg _ _ _)
    | (cases h
       first
         | exact only_writeRM _ _ _
         | exact only_writeRM_flags _ _ _ _
         | exact only_setA_setFlags _ _ _
         | exact only_setA_setCy _ _ _
         | exact only_subFrom _ _ _
         | exact only_writePairSp _ _ _
         | exact only_setReg _ _ _
         | exact only_storeByte _ _ _
         | exact only_setFlags _ _
         | exact only_setCy _ _
         | exact only_setSp _ _
         | exact only_setPc _ _
         | exact only_portWrite _ _ _
         | exact only_refl _)

end Sys2Proof.Machine
end

