-- ==== Sys2Proof/Laws/Flags.lean ====
section
/-! SUPPORT. What each flag computation gives, in the terms the statements use, so that no proof unfolds one. -/

namespace Sys2Proof.Machine

/-- Parity is the evenness of the number of 1 bits. -/
theorem parity_iff (v : Byte) : parity v = true ↔ onesOf v % 2 = 0 := by
  have h : ∀ w : Byte, parity w = true ↔ onesOf w % 2 = 0 := by decide
  exact h v

/-- Zero, Sign and Parity of `flagsOf` are those of the result. -/
theorem flagsOf_result (res : Byte) (ac cy : Bool) : ResultFlags (flagsOf res ac cy) res :=
  ⟨by simp [flagsOf], by simp [flagsOf, BitVec.msb_eq_getLsbD_last], parity_iff res⟩

/-- Changing the two carries keeps the flags of the result. -/
theorem resultFlags_congr (f g : Flags) (res : Byte) (h : ResultFlags f res) (hz : g.z = f.z) (hs : g.s = f.s)
    (hp : g.p = f.p) : ResultFlags g res := by
  unfold ResultFlags at h ⊢
  rwa [hz, hs, hp]

theorem acAfterSub_spec (pol : AcPolarity) (p : Prop) [Decidable p] : AuxAfterSub pol (acAfterSub pol (decide p)) p := by
  cases pol <;> simp [AuxAfterSub, acAfterSub]

/-! ### `ADD8` (42_arithmetic.md R231) -/

theorem add8_res (a b : Byte) (c : Bool) : (add8 a b c).1.toNat = (a.toNat + b.toNat + c.toNat) % 256 := by
  simp [add8]

theorem add8_cy (a b : Byte) (c : Bool) : (add8 a b c).2.cy = true ↔ 255 < a.toNat + b.toNat + c.toNat := by
  simp [add8, flagsOf]

theorem add8_ac (a b : Byte) (c : Bool) :
    (add8 a b c).2.ac = true ↔ 15 < a.toNat % 16 + b.toNat % 16 + c.toNat := by
  simp [add8, flagsOf]

theorem add8_result (a b : Byte) (c : Bool) : ResultFlags (add8 a b c).2 (add8 a b c).1 := flagsOf_result _ _ _

/-! ### `SUB8` (42_arithmetic.md R232) -/

theorem sub8_res (pol : AcPolarity) (a b : Byte) (c : Bool) :
    ((sub8 pol a b c).1.toNat : Int) = ((a.toNat : Int) - b.toNat - c.toNat) % 256 := by
  simp only [sub8, BitVec.toNat_ofInt]
  omega

theorem sub8_cy (pol : AcPolarity) (a b : Byte) (c : Bool) :
    (sub8 pol a b c).2.cy = true ↔ a.toNat < b.toNat + c.toNat := by
  simp only [sub8, flagsOf, decide_eq_true_eq]
  omega

theorem sub8_ac (pol : AcPolarity) (a b : Byte) (c : Bool) :
    AuxAfterSub pol (sub8 pol a b c).2.ac (a.toNat % 16 < b.toNat % 16 + c.toNat) := acAfterSub_spec pol _

theorem sub8_result (pol : AcPolarity) (a b : Byte) (c : Bool) :
    ResultFlags (sub8 pol a b c).2 (sub8 pol a b c).1 := flagsOf_result _ _ _

/-- Without a borrow in, the result is the difference of the bytes. -/
theorem sub8_eq_sub (pol : AcPolarity) (a b : Byte) : (sub8 pol a b false).1 = a - b := by
  apply BitVec.eq_of_toNat_eq
  have h := sub8_res pol a b false
  have := a.isLt
  have := b.isLt
  simp only [Bool.toNat_false, BitVec.toNat_sub] at h ⊢
  omega

/-! ### `INR` and `DCR` (42_arithmetic.md R245, R247) -/

theorem inc8_res (v : Byte) (f : Flags) : (inc8 v f).1.toNat = (v.toNat + 1) % 256 := by simp [inc8]

theorem inc8_ac (v : Byte) (f : Flags) : (inc8 v f).2.ac = true ↔ v.toNat % 16 = 15 := by
  simp only [inc8, flagsOf, decide_eq_true_eq]

theorem inc8_result (v : Byte) (f : Flags) : ResultFlags (inc8 v f).2 (inc8 v f).1 := flagsOf_result _ _ _

theorem dec8_res (pol : AcPolarity) (v : Byte) (f : Flags) : (dec8 pol v f).1.toNat = (v.toNat + 255) % 256 := by
  have h := sub8_res pol v 1 false
  have := v.isLt
  simp only [Bool.toNat_false, show (1 : Byte).toNat = 1 from rfl] at h
  show (sub8 pol v 1 false).1.toNat = _
  omega

theorem dec8_ac (pol : AcPolarity) (v : Byte) (f : Flags) : AuxAfterSub pol (dec8 pol v f).2.ac (v.toNat % 16 = 0) := by
  have h := sub8_ac pol v 1 false
  have e : (v.toNat % 16 < (1 : Byte).toNat % 16 + false.toNat) = (v.toNat % 16 = 0) := by
    simp
  rw [e] at h
  exact h

theorem dec8_result (pol : AcPolarity) (v : Byte) (f : Flags) : ResultFlags (dec8 pol v f).2 (dec8 pol v f).1 :=
  resultFlags_congr _ _ _ (sub8_result pol v 1 false) rfl rfl rfl

/-! ### The logical groups and `DAA` (43_logical.md R270, 42_arithmetic.md R252) -/

theorem andFlags_result (res : Byte) : ResultFlags (andFlags res) res := flagsOf_result _ _ _

theorem xorOrFlags_result (res : Byte) : ResultFlags (xorOrFlags res) res := flagsOf_result _ _ _

theorem daa8_result (a : Byte) (f : Flags) : ResultFlags (daa8 a f).2 (daa8 a f).1 := flagsOf_result _ _ _

/-! ### The flag byte (10_state.md R30) -/

/-- `POP PSW` reads back what `PUSH PSW` wrote, whatever the unused bits. -/
theorem flagsOfByte_flagByte (u : BitVec 3) (f : Flags) : flagsOfByte (flagByte u f) = f := by
  obtain ⟨s, z, ac, p, cy⟩ := f
  have h : ∀ (w : BitVec 3) (s z ac p cy : Bool), flagsOfByte (flagByte w ⟨s, z, ac, p, cy⟩) = ⟨s, z, ac, p, cy⟩ := by
    decide
  exact h u s z ac p cy

theorem flagByte_toNat (u : BitVec 3) (f : Flags) :
    (flagByte u f).toNat = f.s.toNat * 128 + f.z.toNat * 64 + (u.getLsbD 2).toNat * 32 + f.ac.toNat * 16
      + (u.getLsbD 1).toNat * 8 + f.p.toNat * 4 + (u.getLsbD 0).toNat * 2 + f.cy.toNat := by
  obtain ⟨s, z, ac, p, cy⟩ := f
  have h : ∀ (w : BitVec 3) (s z ac p cy : Bool), (flagByte w ⟨s, z, ac, p, cy⟩).toNat = s.toNat * 128 + z.toNat * 64
      + (w.getLsbD 2).toNat * 32 + ac.toNat * 16 + (w.getLsbD 1).toNat * 8 + p.toNat * 4 + (w.getLsbD 0).toNat * 2
      + cy.toNat := by decide
  exact h u s z ac p cy

end Sys2Proof.Machine
end

