-- ==== Sys2Proof/Tests/Slice0.lean ====
section
/-! SUPPORT. The model's own tests. Expected values come from 95_test_vectors.md (a test's name ends in the vector's
number) or from the rule a comment names; the decoded words are written out from the encodings of 30_encoding.md. The
`witness` theorems show that the hypotheses of a statement of Obligations.lean can be met, clause by clause. -/

namespace Sys2Proof.Tests
open Sys2Proof Sys2Proof.Machine

/-! ### Helpers -/

/-- A flag register from 0 and 1, in the order S, Z, AC, P, CY. -/
def fl (s z ac p cy : Nat) : Flags :=
  { s := s == 1, z := z == 1, ac := ac == 1, p := p == 1, cy := cy == 1 }

/-- The start column of a one-instruction vector: what is not named is at its default (95_test_vectors.md). -/
structure Start where
  regs : List (Reg × Byte) := []
  f : Flags := fl 0 0 0 0 0
  pc : Word := 0x0100
  sp : Word := 0x0000
  mem : List (Nat × Byte) := []
  ports : List (Byte × Byte) := []
  calls : List Word := []
  cfg : Params := Params.default

/-- The state a vector starts in, with the instruction's bytes at `pc`. -/
def Start.state (x : Start) (bytes : List Byte) : State :=
  let base : State := { State.initial x.cfg with pc := x.pc, sp := x.sp, f := x.f, callstack := x.calls }
  let s := x.regs.foldl (fun s rv => s.setReg rv.1 rv.2) base
  let s := x.ports.foldl (fun s pv => s.portWrite pv.1 pv.2) s
  { s with mem := placeWithin (x.mem.foldl (fun m av => cellWrite resetMem m av.1 av.2) []) x.pc.toNat bytes,
           istart := [x.pc.toNat] }

/-- One step from a vector's start gives a next state that passes a check. -/
def goes (bytes : List Byte) (x : Start) (check : State → Bool) : Bool :=
  match step (x.state bytes) with
  | .next t => check t
  | .fault _ => false
  | .refused _ => false

/-- One step from a vector's start raises a fault. -/
def faults (bytes : List Byte) (x : Start) (k : Fault) : Bool :=
  match step (x.state bytes) with
  | .next _ => false
  | .fault k' => decide (k' = k)
  | .refused _ => false

/-- The next state of an outcome, if it is one. -/
def nextOf (x : Host.Outcome State Fault Refusal) : Option State :=
  match x with
  | .next t => some t
  | .fault _ => none
  | .refused _ => none

/-- The fault of an outcome, if it is one. -/
def faultOf (x : Host.Outcome State Fault Refusal) : Option Fault :=
  match x with
  | .next _ => none
  | .fault k => some k
  | .refused _ => none

/-- The decoder reads each byte string as the instruction beside it, to its end. -/
def decodesAs (rows : List (List Byte × Instr)) : Bool :=
  rows.all fun row =>
    match decode row.1 with
    | .ok (i, rest) => decide (i = row.2) && rest.isEmpty
    | .error _ => false

/-! ### WellFormed refuses an ill-formed term, by each of its checks -/

theorem test_wf_refuses_mov_m_m : (Instr.mov .m .m).wf = false := by decide

theorem test_wf_refuses_undefined_of_a_defined_byte : (Instr.undefined 0x00).wf = false := by decide

theorem test_wf_accepts : (Instr.mov .m (.reg .a)).wf = true ∧ (Instr.undefined 0xCB).wf = true := by decide

/-! ### Every constructor's decoding, on words written out from 30_encoding.md R91 to R99 -/

/-- `MOV` 01 DDD SSS, `MVI` 00 DDD 110, `LXI` 00 RP 0001, `LDAX` 000 P 1010, `STAX` 000 P 0010; single values of R98. -/
theorem test_decode_data_transfer : decodesAs
    [([0b01000001], .mov (.reg .b) (.reg .c)), ([0b01110111], .mov .m (.reg .a)), ([0b01101110], .mov (.reg .l) .m),
     ([0b00111110, 0x05], .mvi (.reg .a) 0x05), ([0b00110110, 0x09], .mvi .m 0x09),
     ([0b00100001, 0x00, 0x20], .lxi (.pair .h) 0x2000), ([0b00110001, 0x34, 0x12], .lxi .sp 0x1234),
     ([0x3A, 0x50, 0x20], .lda 0x2050), ([0x32, 0x50, 0x20], .sta 0x2050), ([0x2A, 0x50, 0x20], .lhld 0x2050),
     ([0x22, 0x50, 0x20], .shld 0x2050), ([0b00001010], .ldax .b), ([0b00011010], .ldax .d), ([0b00000010], .stax .b),
     ([0b00010010], .stax .d), ([0xEB], .xchg)] = true := by decide

/-- `ADD` 10000 SSS, `ADC` 10001, `SUB` 10010, `SBB` 10011, `INR` 00 DDD 100, `DCR` 00 DDD 101, `INX` 00 RP 0011,
`DCX` 00 RP 1011, `DAD` 00 RP 1001; single values of R98. -/
theorem test_decode_arithmetic : decodesAs
    [([0b10000110], .add .m), ([0xC6, 0x01], .adi 0x01), ([0b10001011], .adc (.reg .e)), ([0xCE, 0x42], .aci 0x42),
     ([0b10010111], .sub (.reg .a)), ([0xD6, 0x01], .sui 0x01), ([0b10011101], .sbb (.reg .l)),
     ([0xDE, 0x01], .sbi 0x01), ([0b00000100], .inr (.reg .b)), ([0b00110100], .inr .m), ([0b00001101], .dcr (.reg .c)),
     ([0b00110011], .inx .sp), ([0b00011011], .dcx (.pair .d)), ([0b00101001], .dad (.pair .h)), ([0x27], .daa)]
    = true := by decide

/-- `ANA` 10100 SSS, `XRA` 10101, `ORA` 10110, `CMP` 10111; single values of R98. -/
theorem test_decode_logical : decodesAs
    [([0b10100000], .ana (.reg .b)), ([0xE6, 0x0F], .ani 0x0F), ([0b10101110], .xra .m), ([0xEE, 0x81], .xri 0x81),
     ([0b10110001], .ora (.reg .c)), ([0xF6, 0x0F], .ori 0x0F), ([0b10111100], .cmp (.reg .h)), ([0xFE, 0x40], .cpi 0x40),
     ([0x07], .rlc), ([0x0F], .rrc), ([0x17], .ral), ([0x1F], .rar), ([0x2F], .cma), ([0x3F], .cmc), ([0x37], .stc)]
    = true := by decide

/-- `Jccc` 11 CCC 010, `Cccc` 11 CCC 100, `Rccc` 11 CCC 000, `RST` 11 NNN 111, with the condition codes of R95; single
values of R98. -/
theorem test_decode_branch : decodesAs
    [([0xC3, 0x10, 0x20], .jmp 0x2010), ([0b11000010, 0x10, 0x20], .jnz 0x2010), ([0b11001010, 0x10, 0x20], .jz 0x2010),
     ([0b11010010, 0x10, 0x20], .jnc 0x2010), ([0b11011010, 0x10, 0x20], .jc 0x2010),
     ([0b11100010, 0x10, 0x20], .jpo 0x2010), ([0b11101010, 0x10, 0x20], .jpe 0x2010),
     ([0b11110010, 0x10, 0x20], .jp 0x2010), ([0b11111010, 0x10, 0x20], .jm 0x2010), ([0xCD, 0x10, 0x20], .call 0x2010),
     ([0b11000100, 0x10, 0x20], .cnz 0x2010), ([0b11001100, 0x10, 0x20], .cz 0x2010),
     ([0b11010100, 0x10, 0x20], .cnc 0x2010), ([0b11011100, 0x10, 0x20], .cc 0x2010),
     ([0b11100100, 0x10, 0x20], .cpo 0x2010), ([0b11101100, 0x10, 0x20], .cpe 0x2010),
     ([0b11110100, 0x10, 0x20], .cp 0x2010), ([0b11111100, 0x10, 0x20], .cm 0x2010), ([0xC9], .ret), ([0b11000000], .rnz),
     ([0b11001000], .rz), ([0b11010000], .rnc), ([0b11011000], .rc), ([0b11100000], .rpo), ([0b11101000], .rpe),
     ([0b11110000], .rp), ([0b11111000], .rm), ([0xE9], .pchl), ([0b11101111], .rst 5)] = true := by decide

/-- `PUSH` 11 RP 0101, `POP` 11 RP 0001; single values of R98; the undefined bytes of R99. -/
theorem test_decode_stack_and_machine_control : decodesAs
    [([0b11000101], .push (.pair .b)), ([0b11110101], .push .psw), ([0b11100001], .pop (.pair .h)),
     ([0b11110001], .pop .psw), ([0xE3], .xthl), ([0xF9], .sphl), ([0xDB, 0x10], .in_ 0x10), ([0xD3, 0x01], .out 0x01),
     ([0x76], .hlt), ([0x00], .nop), ([0xFB], .ei), ([0xF3], .di), ([0x20], .rim), ([0x30], .sim),
     ([0x08], .undefined 0x08), ([0xCB], .undefined 0xCB), ([0xFD], .undefined 0xFD)] = true := by decide

/-- A string that ends inside an instruction is no instruction (R101). -/
theorem test_decode_refuses_truncated :
    (match decode [0x21, 0x00] with | .ok _ => false | .error e => decide (e = .truncated 0x21 3)) = true := by decide

/-! ### One step of an instruction, from the vectors of 95_test_vectors.md -/

theorem test_mov_V7 : goes [0x66] { regs := [(.h, 0x20), (.l, 0x00)], mem := [(0x2000, 0x55)] }
    (fun t => t.reg .h = 0x55 ∧ t.f = fl 0 0 0 0 0 ∧ t.pc = 0x0101) = true := by decide

theorem test_mov_V9 : goes [0x74] { regs := [(.h, 0x20), (.l, 0x00)] }
    (fun t => t.byteAt 0x2000 = 0x20 ∧ t.f = fl 0 0 0 0 0 ∧ t.pc = 0x0101) = true := by decide

theorem test_mvi_V11 : goes [0x36, 0x09] { regs := [(.h, 0x20), (.l, 0x00)] }
    (fun t => t.byteAt 0x2000 = 0x09 ∧ t.f = fl 0 0 0 0 0 ∧ t.pc = 0x0102) = true := by decide

theorem test_mvi_V12 : goes [0x2E, 0xFF] { regs := [(.h, 0x20), (.l, 0x00)] }
    (fun t => t.reg .l = 0xFF ∧ t.f = fl 0 0 0 0 0 ∧ t.pc = 0x0102) = true := by decide

theorem test_lxi_V14 : goes [0x01, 0x34, 0x12] {}
    (fun t => t.reg .b = 0x12 ∧ t.reg .c = 0x34 ∧ t.f = fl 0 0 0 0 0 ∧ t.pc = 0x0103) = true := by decide

theorem test_lxi_V15 : goes [0x31, 0x00, 0x30] {}
    (fun t => t.sp = 0x3000 ∧ t.f = fl 0 0 0 0 0 ∧ t.pc = 0x0103) = true := by decide

theorem test_lda_V17 : goes [0x3A, 0xFF, 0xFF] { mem := [(0xFFFF, 0x7E)] }
    (fun t => t.reg .a = 0x7E ∧ t.f = fl 0 0 0 0 0 ∧ t.pc = 0x0103) = true := by decide

theorem test_sta_V18 : goes [0x32, 0x50, 0x20] { regs := [(.a, 0x08)] }
    (fun t => t.byteAt 0x2050 = 0x08 ∧ t.f = fl 0 0 0 0 0 ∧ t.pc = 0x0103) = true := by decide

theorem test_lhld_V19 : goes [0x2A, 0x50, 0x20] { mem := [(0x2050, 0x34), (0x2051, 0x12)] }
    (fun t => t.reg .h = 0x12 ∧ t.reg .l = 0x34 ∧ t.f = fl 0 0 0 0 0 ∧ t.pc = 0x0103) = true := by decide

theorem test_lhld_V20 : faults [0x2A, 0xFF, 0xFF] { mem := [(0xFFFF, 0x34)] }
    (.invalidMemoryAddress (.address 65536)) = true := by decide

theorem test_shld_V21 : goes [0x22, 0x50, 0x20] { regs := [(.h, 0x12), (.l, 0x34)] }
    (fun t => t.byteAt 0x2050 = 0x34 ∧ t.byteAt 0x2051 = 0x12 ∧ t.f = fl 0 0 0 0 0
      ∧ t.pc = 0x0103) = true := by decide

theorem test_shld_V22 : faults [0x22, 0xFF, 0xFF] { regs := [(.h, 0x12), (.l, 0x34)] }
    (.invalidMemoryAddress (.address 65536)) = true := by decide

theorem test_ldax_V23 : goes [0x0A] { regs := [(.b, 0x30), (.c, 0x00)], mem := [(0x3000, 0xAA)] }
    (fun t => t.reg .a = 0xAA ∧ t.f = fl 0 0 0 0 0 ∧ t.pc = 0x0101) = true := by decide

theorem test_ldax_V24 : goes [0x1A] { regs := [(.d, 0x30), (.e, 0x00)], mem := [(0x3000, 0xAA)] }
    (fun t => t.reg .a = 0xAA ∧ t.f = fl 0 0 0 0 0 ∧ t.pc = 0x0101) = true := by decide

theorem test_stax_V25 : goes [0x02] { regs := [(.b, 0x30), (.c, 0x00), (.a, 0x55)] }
    (fun t => t.byteAt 0x3000 = 0x55 ∧ t.f = fl 0 0 0 0 0 ∧ t.pc = 0x0101) = true := by decide

theorem test_stax_V26 : goes [0x12] { regs := [(.d, 0x30), (.e, 0x01), (.a, 0x55)] }
    (fun t => t.byteAt 0x3001 = 0x55 ∧ t.f = fl 0 0 0 0 0 ∧ t.pc = 0x0101) = true := by decide

theorem test_xchg_V27 : goes [0xEB] { regs := [(.h, 0x12), (.l, 0x34), (.d, 0xAB), (.e, 0xCD)] }
    (fun t => t.reg .d = 0x12 ∧ t.reg .e = 0x34 ∧ t.reg .h = 0xAB ∧ t.reg .l = 0xCD ∧ t.f = fl 0 0 0 0 0
      ∧ t.pc = 0x0101) = true := by decide

theorem test_add_V32 : goes [0x80] { regs := [(.a, 0x7F), (.b, 0x01)] }
    (fun t => t.reg .a = 0x80 ∧ t.f = fl 1 0 1 0 0 ∧ t.pc = 0x0101) = true := by decide

theorem test_add_V34 : goes [0x86] { regs := [(.a, 0x10), (.h, 0x20), (.l, 0x00)], mem := [(0x2000, 0x22)] }
    (fun t => t.reg .a = 0x32 ∧ t.f = fl 0 0 0 0 0 ∧ t.pc = 0x0101) = true := by decide

theorem test_adi_V36 : goes [0xC6, 0x0F] { regs := [(.a, 0x01)] }
    (fun t => t.reg .a = 0x10 ∧ t.f = fl 0 0 1 0 0 ∧ t.pc = 0x0102) = true := by decide

theorem test_adc_V38 : goes [0x88] { regs := [(.a, 0x00), (.b, 0xFF)], f := fl 0 0 0 0 1 }
    (fun t => t.f = fl 0 1 1 1 1 ∧ t.pc = 0x0101) = true := by decide

theorem test_adc_V40 : goes [0x8E]
      { regs := [(.a, 0x01), (.h, 0x20), (.l, 0x00)], f := fl 0 0 0 0 1, mem := [(0x2000, 0x01)] }
    (fun t => t.reg .a = 0x03 ∧ t.f = fl 0 0 0 1 0 ∧ t.pc = 0x0101) = true := by decide

theorem test_aci_V41 : goes [0xCE, 0x42] { regs := [(.a, 0x56)], f := fl 0 0 0 0 1 }
    (fun t => t.reg .a = 0x99 ∧ t.f = fl 1 0 0 1 0 ∧ t.pc = 0x0102) = true := by decide

theorem test_sub_V43 : goes [0x90] { regs := [(.a, 0x03), (.b, 0x05)] }
    (fun t => t.reg .a = 0xFE ∧ t.f = fl 1 0 1 0 1 ∧ t.pc = 0x0101) = true := by decide

theorem test_sub_V47 : goes [0x96] { regs := [(.a, 0x20), (.h, 0x20), (.l, 0x00)], mem := [(0x2000, 0x01)] }
    (fun t => t.reg .a = 0x1F ∧ t.f = fl 0 0 1 0 0 ∧ t.pc = 0x0101) = true := by decide

theorem test_sui_V48 : goes [0xD6, 0x01] { regs := [(.a, 0x00)] }
    (fun t => t.reg .a = 0xFF ∧ t.f = fl 1 0 1 1 1 ∧ t.pc = 0x0102) = true := by decide

theorem test_sbb_V51 : goes [0x98] { regs := [(.a, 0x00), (.b, 0xFF)], f := fl 0 0 0 0 1 }
    (fun t => t.f = fl 0 1 1 1 1 ∧ t.pc = 0x0101) = true := by decide

theorem test_sbb_V53 : goes [0x9E]
      { regs := [(.a, 0x10), (.h, 0x20), (.l, 0x00)], f := fl 0 0 0 0 1, mem := [(0x2000, 0x0F)] }
    (fun t => t.reg .a = 0x00 ∧ t.f = fl 0 1 1 1 0 ∧ t.pc = 0x0101) = true := by decide

theorem test_sbi_V55 : goes [0xDE, 0x00] { regs := [(.a, 0x00)], f := fl 0 0 0 0 1 }
    (fun t => t.reg .a = 0xFF ∧ t.f = fl 1 0 1 1 1 ∧ t.pc = 0x0102) = true := by decide

theorem test_inr_V58 : goes [0x3C] { regs := [(.a, 0xFF)], f := fl 0 0 0 0 1 }
    (fun t => t.reg .a = 0x00 ∧ t.f = fl 0 1 1 1 1 ∧ t.pc = 0x0101) = true := by decide

theorem test_inr_V60 : goes [0x34] { regs := [(.h, 0x20), (.l, 0x00)], mem := [(0x2000, 0x7F)] }
    (fun t => t.byteAt 0x2000 = 0x80 ∧ t.f = fl 1 0 1 0 0 ∧ t.pc = 0x0101) = true := by decide

theorem test_dcr_V64 : goes [0x05] { regs := [(.b, 0x00)] }
    (fun t => t.reg .b = 0xFF ∧ t.f = fl 1 0 1 1 0 ∧ t.pc = 0x0101) = true := by decide

theorem test_dcr_V66 : goes [0x35] { regs := [(.h, 0x20), (.l, 0x00)], mem := [(0x2000, 0x01)] }
    (fun t => t.byteAt 0x2000 = 0x00 ∧ t.f = fl 0 1 0 1 0 ∧ t.pc = 0x0101) = true := by decide

theorem test_inx_V67 : goes [0x23] { regs := [(.h, 0x20), (.l, 0xFF)] }
    (fun t => t.reg .h = 0x21 ∧ t.reg .l = 0x00 ∧ t.f = fl 0 0 0 0 0 ∧ t.pc = 0x0101) = true := by decide

theorem test_inx_V71 : goes [0x33] { sp := 0xFFFF }
    (fun t => t.sp = 0x0000 ∧ t.f = fl 0 0 0 0 0 ∧ t.pc = 0x0101) = true := by decide

theorem test_dcx_V73 : goes [0x0B] { regs := [(.b, 0x00), (.c, 0x00)] }
    (fun t => t.reg .b = 0xFF ∧ t.reg .c = 0xFF ∧ t.f = fl 0 0 0 0 0 ∧ t.pc = 0x0101) = true := by decide

theorem test_dcx_V76 : goes [0x3B] { sp := 0x0000 }
    (fun t => t.sp = 0xFFFF ∧ t.f = fl 0 0 0 0 0 ∧ t.pc = 0x0101) = true := by decide

theorem test_dad_V77 : goes [0x09] { regs := [(.h, 0xF0), (.l, 0x00), (.b, 0x20), (.c, 0x00)] }
    (fun t => t.reg .h = 0x10 ∧ t.f = fl 0 0 0 0 1 ∧ t.pc = 0x0101) = true := by decide

theorem test_dad_V80 : goes [0x39] { regs := [(.h, 0x00), (.l, 0x01)], sp := 0x2FFF }
    (fun t => t.reg .h = 0x30 ∧ t.reg .l = 0x00 ∧ t.f = fl 0 0 0 0 0 ∧ t.pc = 0x0101) = true := by decide

theorem test_daa_V82 : goes [0x27] { regs := [(.a, 0x7D)] }
    (fun t => t.reg .a = 0x83 ∧ t.f = fl 1 0 1 0 0 ∧ t.pc = 0x0101) = true := by decide

theorem test_daa_V84 : goes [0x27] { regs := [(.a, 0x9A)] }
    (fun t => t.reg .a = 0x00 ∧ t.f = fl 0 1 1 1 1 ∧ t.pc = 0x0101) = true := by decide

theorem test_ana_V87 : goes [0xA0] { regs := [(.a, 0xF0), (.b, 0x3C)] }
    (fun t => t.reg .a = 0x30 ∧ t.f = fl 0 0 1 1 0 ∧ t.pc = 0x0101) = true := by decide

theorem test_ana_V89 : goes [0xA6] { regs := [(.a, 0xFF), (.h, 0x20), (.l, 0x00)], mem := [(0x2000, 0x00)] }
    (fun t => t.reg .a = 0x00 ∧ t.f = fl 0 1 1 1 0 ∧ t.pc = 0x0101) = true := by decide

theorem test_ani_V90 : goes [0xE6, 0x0F] { regs := [(.a, 0x3A)] }
    (fun t => t.reg .a = 0x0A ∧ t.f = fl 0 0 1 1 0 ∧ t.pc = 0x0102) = true := by decide

theorem test_xra_V91 : goes [0xA9] { regs := [(.a, 0xFF), (.c, 0x0F)] }
    (fun t => t.reg .a = 0xF0 ∧ t.f = fl 1 0 0 1 0 ∧ t.pc = 0x0101) = true := by decide

theorem test_xra_V93 : goes [0xAE] { regs := [(.a, 0x55), (.h, 0x20), (.l, 0x00)], mem := [(0x2000, 0xFF)] }
    (fun t => t.reg .a = 0xAA ∧ t.f = fl 1 0 0 1 0 ∧ t.pc = 0x0101) = true := by decide

theorem test_xri_V94 : goes [0xEE, 0x81] { regs := [(.a, 0x3B)] }
    (fun t => t.reg .a = 0xBA ∧ t.f = fl 1 0 0 0 0 ∧ t.pc = 0x0102) = true := by decide

theorem test_ora_V95 : goes [0xB1] { regs := [(.a, 0x33), (.c, 0x0F)] }
    (fun t => t.reg .a = 0x3F ∧ t.f = fl 0 0 0 1 0 ∧ t.pc = 0x0101) = true := by decide

theorem test_ora_V96 : goes [0xB6]
      { regs := [(.a, 0x00), (.h, 0x20), (.l, 0x00)], f := fl 0 0 1 0 1, mem := [(0x2000, 0x00)] }
    (fun t => t.f = fl 0 1 0 1 0 ∧ t.pc = 0x0101) = true := by decide

theorem test_ori_V98 : goes [0xF6, 0x80] { regs := [(.a, 0x00)] }
    (fun t => t.reg .a = 0x80 ∧ t.f = fl 1 0 0 0 0 ∧ t.pc = 0x0102) = true := by decide

theorem test_cmp_V101 : goes [0xBB] { regs := [(.a, 0x02), (.e, 0x05)] }
    (fun t => t.f = fl 1 0 1 0 1 ∧ t.pc = 0x0101) = true := by decide

theorem test_cmp_V102 : goes [0xBE] { regs := [(.a, 0x02), (.h, 0x20), (.l, 0x00)], mem := [(0x2000, 0x05)] }
    (fun t => t.f = fl 1 0 1 0 1 ∧ t.pc = 0x0101) = true := by decide

theorem test_cpi_V105 : goes [0xFE, 0x80] { regs := [(.a, 0x7F)] }
    (fun t => t.f = fl 1 0 0 1 1 ∧ t.pc = 0x0102) = true := by decide

theorem test_cpi_V106 : goes [0xFE, 0x80] { regs := [(.a, 0x7F)], cfg :=
      { Params.default with acSubPolarity := .carry } }
    (fun t => t.f = fl 1 0 1 1 1 ∧ t.pc = 0x0102) = true := by decide

theorem test_rlc_V107 : goes [0x07] { regs := [(.a, 0xF2)] }
    (fun t => t.reg .a = 0xE5 ∧ t.f = fl 0 0 0 0 1 ∧ t.pc = 0x0101) = true := by decide

theorem test_rlc_V108 : goes [0x07] { regs := [(.a, 0x80)], f := fl 1 1 1 1 1 }
    (fun t => t.reg .a = 0x01 ∧ t.f = fl 1 1 1 1 1 ∧ t.pc = 0x0101) = true := by decide

theorem test_rrc_V109 : goes [0x0F] { regs := [(.a, 0xF2)] }
    (fun t => t.reg .a = 0x79 ∧ t.f = fl 0 0 0 0 0 ∧ t.pc = 0x0101) = true := by decide

theorem test_rrc_V110 : goes [0x0F] { regs := [(.a, 0x01)] }
    (fun t => t.reg .a = 0x80 ∧ t.f = fl 0 0 0 0 1 ∧ t.pc = 0x0101) = true := by decide

theorem test_ral_V111 : goes [0x17] { regs := [(.a, 0xB5)], f := fl 0 0 0 0 0 }
    (fun t => t.reg .a = 0x6A ∧ t.f = fl 0 0 0 0 1 ∧ t.pc = 0x0101) = true := by decide

theorem test_ral_V112 : goes [0x17] { regs := [(.a, 0x00)], f := fl 0 0 0 0 1 }
    (fun t => t.reg .a = 0x01 ∧ t.f = fl 0 0 0 0 0 ∧ t.pc = 0x0101) = true := by decide

theorem test_rar_V113 : goes [0x1F] { regs := [(.a, 0x6A)], f := fl 0 0 0 0 1 }
    (fun t => t.reg .a = 0xB5 ∧ t.f = fl 0 0 0 0 0 ∧ t.pc = 0x0101) = true := by decide

theorem test_rar_V114 : goes [0x1F] { regs := [(.a, 0x01)], f := fl 0 0 0 0 0 }
    (fun t => t.reg .a = 0x00 ∧ t.f = fl 0 0 0 0 1 ∧ t.pc = 0x0101) = true := by decide

theorem test_cma_V116 : goes [0x2F] { regs := [(.a, 0xFF)], f := fl 1 1 1 1 1 }
    (fun t => t.reg .a = 0x00 ∧ t.f = fl 1 1 1 1 1 ∧ t.pc = 0x0101) = true := by decide

theorem test_cmc_V117 : goes [0x3F] { f := fl 0 0 0 0 1 }
    (fun t => t.f = fl 0 0 0 0 0 ∧ t.pc = 0x0101) = true := by decide

theorem test_cmc_V118 : goes [0x3F] { f := fl 0 0 0 0 0 }
    (fun t => t.f = fl 0 0 0 0 1 ∧ t.pc = 0x0101) = true := by decide

theorem test_stc_V119 : goes [0x37] {}
    (fun t => t.f = fl 0 0 0 0 1 ∧ t.pc = 0x0101) = true := by decide

theorem test_jmp_V121 : goes [0xC3, 0x10, 0x20] { pc := 0x1000 }
    (fun t => t.f = fl 0 0 0 0 0 ∧ t.pc = 0x2010) = true := by decide

theorem test_jnz_V123 : goes [0xC2, 0x00, 0x20] { f := fl 0 0 0 0 0, pc := 0x1000 }
    (fun t => t.f = fl 0 0 0 0 0 ∧ t.pc = 0x2000) = true := by decide

theorem test_jnz_V124 : goes [0xC2, 0x00, 0x20] { f := fl 0 1 0 0 0, pc := 0x1000 }
    (fun t => t.f = fl 0 1 0 0 0 ∧ t.pc = 0x1003) = true := by decide

theorem test_jz_V125 : goes [0xCA, 0x00, 0x20] { f := fl 0 0 0 0 0, pc := 0x1000 }
    (fun t => t.f = fl 0 0 0 0 0 ∧ t.pc = 0x1003) = true := by decide

theorem test_jz_V126 : goes [0xCA, 0x00, 0x20] { f := fl 0 1 0 0 0, pc := 0x1000 }
    (fun t => t.f = fl 0 1 0 0 0 ∧ t.pc = 0x2000) = true := by decide

theorem test_jnc_V127 : goes [0xD2, 0x00, 0x20] { f := fl 0 0 0 0 0, pc := 0x1000 }
    (fun t => t.f = fl 0 0 0 0 0 ∧ t.pc = 0x2000) = true := by decide

theorem test_jnc_V128 : goes [0xD2, 0x00, 0x20] { f := fl 0 0 0 0 1, pc := 0x1000 }
    (fun t => t.f = fl 0 0 0 0 1 ∧ t.pc = 0x1003) = true := by decide

theorem test_jc_V129 : goes [0xDA, 0x00, 0x20] { f := fl 0 0 0 0 0, pc := 0x1000 }
    (fun t => t.f = fl 0 0 0 0 0 ∧ t.pc = 0x1003) = true := by decide

theorem test_jc_V130 : goes [0xDA, 0x00, 0x20] { f := fl 0 0 0 0 1, pc := 0x1000 }
    (fun t => t.f = fl 0 0 0 0 1 ∧ t.pc = 0x2000) = true := by decide

theorem test_jpo_V131 : goes [0xE2, 0x00, 0x20] { f := fl 0 0 0 0 0, pc := 0x1000 }
    (fun t => t.f = fl 0 0 0 0 0 ∧ t.pc = 0x2000) = true := by decide

theorem test_jpo_V132 : goes [0xE2, 0x00, 0x20] { f := fl 0 0 0 1 0, pc := 0x1000 }
    (fun t => t.f = fl 0 0 0 1 0 ∧ t.pc = 0x1003) = true := by decide

theorem test_jpe_V133 : goes [0xEA, 0x00, 0x20] { f := fl 0 0 0 0 0, pc := 0x1000 }
    (fun t => t.f = fl 0 0 0 0 0 ∧ t.pc = 0x1003) = true := by decide

theorem test_jpe_V134 : goes [0xEA, 0x00, 0x20] { f := fl 0 0 0 1 0, pc := 0x1000 }
    (fun t => t.f = fl 0 0 0 1 0 ∧ t.pc = 0x2000) = true := by decide

theorem test_jp_V135 : goes [0xF2, 0x00, 0x20] { f := fl 0 0 0 0 0, pc := 0x1000 }
    (fun t => t.f = fl 0 0 0 0 0 ∧ t.pc = 0x2000) = true := by decide

theorem test_jp_V136 : goes [0xF2, 0x00, 0x20] { f := fl 1 0 0 0 0, pc := 0x1000 }
    (fun t => t.f = fl 1 0 0 0 0 ∧ t.pc = 0x1003) = true := by decide

theorem test_jm_V137 : goes [0xFA, 0x00, 0x20] { f := fl 0 0 0 0 0, pc := 0x1000 }
    (fun t => t.f = fl 0 0 0 0 0 ∧ t.pc = 0x1003) = true := by decide

theorem test_jm_V138 : goes [0xFA, 0x00, 0x20] { f := fl 1 0 0 0 0, pc := 0x1000 }
    (fun t => t.f = fl 1 0 0 0 0 ∧ t.pc = 0x2000) = true := by decide

theorem test_call_V140 : goes [0xCD, 0x00, 0x20] { pc := 0x1000, calls := [0x0500] }
    (fun t => t.callstack = [0x1003, 0x0500] ∧ t.f = fl 0 0 0 0 0 ∧ t.pc = 0x2000) = true := by decide

theorem test_call_V142 : faults [0xCD, 0x00, 0x20] { pc := 0x1000, calls := List.replicate 100 0x0003 }
    (.stackOverflow (.pc 0x1000)) = true := by decide

theorem test_cnz_V144 : goes [0xC4, 0x00, 0x20] { f := fl 0 0 0 0 0, pc := 0x1000 }
    (fun t => t.callstack = [0x1003] ∧ t.f = fl 0 0 0 0 0 ∧ t.pc = 0x2000) = true := by decide

theorem test_cnz_V145 : goes [0xC4, 0x00, 0x20] { f := fl 0 1 0 0 0, pc := 0x1000 }
    (fun t => t.f = fl 0 1 0 0 0 ∧ t.pc = 0x1003) = true := by decide

theorem test_cz_V146 : goes [0xCC, 0x00, 0x20] { f := fl 0 0 0 0 0, pc := 0x1000 }
    (fun t => t.f = fl 0 0 0 0 0 ∧ t.pc = 0x1003) = true := by decide

theorem test_cz_V147 : goes [0xCC, 0x00, 0x20] { f := fl 0 1 0 0 0, pc := 0x1000 }
    (fun t => t.callstack = [0x1003] ∧ t.f = fl 0 1 0 0 0 ∧ t.pc = 0x2000) = true := by decide

theorem test_cnc_V148 : goes [0xD4, 0x00, 0x20] { f := fl 0 0 0 0 0, pc := 0x1000 }
    (fun t => t.callstack = [0x1003] ∧ t.f = fl 0 0 0 0 0 ∧ t.pc = 0x2000) = true := by decide

theorem test_cnc_V149 : goes [0xD4, 0x00, 0x20] { f := fl 0 0 0 0 1, pc := 0x1000 }
    (fun t => t.f = fl 0 0 0 0 1 ∧ t.pc = 0x1003) = true := by decide

theorem test_cc_V150 : goes [0xDC, 0x00, 0x20] { f := fl 0 0 0 0 0, pc := 0x1000 }
    (fun t => t.f = fl 0 0 0 0 0 ∧ t.pc = 0x1003) = true := by decide

theorem test_cc_V151 : goes [0xDC, 0x00, 0x20] { f := fl 0 0 0 0 1, pc := 0x1000 }
    (fun t => t.callstack = [0x1003] ∧ t.f = fl 0 0 0 0 1 ∧ t.pc = 0x2000) = true := by decide

theorem test_cpo_V152 : goes [0xE4, 0x00, 0x20] { f := fl 0 0 0 0 0, pc := 0x1000 }
    (fun t => t.callstack = [0x1003] ∧ t.f = fl 0 0 0 0 0 ∧ t.pc = 0x2000) = true := by decide

theorem test_cpo_V153 : goes [0xE4, 0x00, 0x20] { f := fl 0 0 0 1 0, pc := 0x1000 }
    (fun t => t.f = fl 0 0 0 1 0 ∧ t.pc = 0x1003) = true := by decide

theorem test_cpe_V154 : goes [0xEC, 0x00, 0x20] { f := fl 0 0 0 0 0, pc := 0x1000 }
    (fun t => t.f = fl 0 0 0 0 0 ∧ t.pc = 0x1003) = true := by decide

theorem test_cpe_V155 : goes [0xEC, 0x00, 0x20] { f := fl 0 0 0 1 0, pc := 0x1000 }
    (fun t => t.callstack = [0x1003] ∧ t.f = fl 0 0 0 1 0 ∧ t.pc = 0x2000) = true := by decide

theorem test_cp_V156 : goes [0xF4, 0x00, 0x20] { f := fl 0 0 0 0 0, pc := 0x1000 }
    (fun t => t.callstack = [0x1003] ∧ t.f = fl 0 0 0 0 0 ∧ t.pc = 0x2000) = true := by decide

theorem test_cp_V157 : goes [0xF4, 0x00, 0x20] { f := fl 1 0 0 0 0, pc := 0x1000 }
    (fun t => t.f = fl 1 0 0 0 0 ∧ t.pc = 0x1003) = true := by decide

theorem test_cm_V158 : goes [0xFC, 0x00, 0x20] { f := fl 0 0 0 0 0, pc := 0x1000 }
    (fun t => t.f = fl 0 0 0 0 0 ∧ t.pc = 0x1003) = true := by decide

theorem test_cm_V159 : goes [0xFC, 0x00, 0x20] { f := fl 1 0 0 0 0, pc := 0x1000 }
    (fun t => t.callstack = [0x1003] ∧ t.f = fl 1 0 0 0 0 ∧ t.pc = 0x2000) = true := by decide

theorem test_ret_V163 : goes [0xC9] { pc := 0x2005, calls := [0x1003, 0x0500] }
    (fun t => t.callstack = [0x0500] ∧ t.f = fl 0 0 0 0 0 ∧ t.pc = 0x1003) = true := by decide

theorem test_ret_V165 : faults [0xC9] { pc := 0x2005, sp := 0x2FFE, mem := [(0x2FFE, 0x34), (0x2FFF, 0x12)] }
    (.stackUnderflow (.pc 0x2005)) = true := by decide

theorem test_rnz_V166 : goes [0xC0] { f := fl 0 0 0 0 0, pc := 0x2005, calls := [0x1003] }
    (fun t => t.callstack = [] ∧ t.f = fl 0 0 0 0 0 ∧ t.pc = 0x1003) = true := by decide

theorem test_rnz_V167 : goes [0xC0] { f := fl 0 1 0 0 0, pc := 0x2005, calls := [0x1003] }
    (fun t => t.f = fl 0 1 0 0 0 ∧ t.pc = 0x2006) = true := by decide

theorem test_rz_V168 : goes [0xC8] { f := fl 0 0 0 0 0, pc := 0x2005, calls := [0x1003] }
    (fun t => t.f = fl 0 0 0 0 0 ∧ t.pc = 0x2006) = true := by decide

theorem test_rz_V169 : goes [0xC8] { f := fl 0 1 0 0 0, pc := 0x2005, calls := [0x1003] }
    (fun t => t.callstack = [] ∧ t.f = fl 0 1 0 0 0 ∧ t.pc = 0x1003) = true := by decide

theorem test_rnc_V170 : goes [0xD0] { f := fl 0 0 0 0 0, pc := 0x2005, calls := [0x1003] }
    (fun t => t.callstack = [] ∧ t.f = fl 0 0 0 0 0 ∧ t.pc = 0x1003) = true := by decide

theorem test_rnc_V171 : goes [0xD0] { f := fl 0 0 0 0 1, pc := 0x2005, calls := [0x1003] }
    (fun t => t.f = fl 0 0 0 0 1 ∧ t.pc = 0x2006) = true := by decide

theorem test_rc_V172 : goes [0xD8] { f := fl 0 0 0 0 0, pc := 0x2005, calls := [0x1003] }
    (fun t => t.f = fl 0 0 0 0 0 ∧ t.pc = 0x2006) = true := by decide

theorem test_rc_V173 : goes [0xD8] { f := fl 0 0 0 0 1, pc := 0x2005, calls := [0x1003] }
    (fun t => t.callstack = [] ∧ t.f = fl 0 0 0 0 1 ∧ t.pc = 0x1003) = true := by decide

theorem test_rpo_V174 : goes [0xE0] { f := fl 0 0 0 0 0, pc := 0x2005, calls := [0x1003] }
    (fun t => t.callstack = [] ∧ t.f = fl 0 0 0 0 0 ∧ t.pc = 0x1003) = true := by decide

theorem test_rpo_V175 : goes [0xE0] { f := fl 0 0 0 1 0, pc := 0x2005, calls := [0x1003] }
    (fun t => t.f = fl 0 0 0 1 0 ∧ t.pc = 0x2006) = true := by decide

theorem test_rpe_V176 : goes [0xE8] { f := fl 0 0 0 0 0, pc := 0x2005, calls := [0x1003] }
    (fun t => t.f = fl 0 0 0 0 0 ∧ t.pc = 0x2006) = true := by decide

theorem test_rpe_V177 : goes [0xE8] { f := fl 0 0 0 1 0, pc := 0x2005, calls := [0x1003] }
    (fun t => t.callstack = [] ∧ t.f = fl 0 0 0 1 0 ∧ t.pc = 0x1003) = true := by decide

theorem test_rp_V178 : goes [0xF0] { f := fl 0 0 0 0 0, pc := 0x2005, calls := [0x1003] }
    (fun t => t.callstack = [] ∧ t.f = fl 0 0 0 0 0 ∧ t.pc = 0x1003) = true := by decide

theorem test_rp_V179 : goes [0xF0] { f := fl 1 0 0 0 0, pc := 0x2005, calls := [0x1003] }
    (fun t => t.f = fl 1 0 0 0 0 ∧ t.pc = 0x2006) = true := by decide

theorem test_rm_V180 : goes [0xF8] { f := fl 0 0 0 0 0, pc := 0x2005, calls := [0x1003] }
    (fun t => t.f = fl 0 0 0 0 0 ∧ t.pc = 0x2006) = true := by decide

theorem test_rm_V181 : goes [0xF8] { f := fl 1 0 0 0 0, pc := 0x2005, calls := [0x1003] }
    (fun t => t.callstack = [] ∧ t.f = fl 1 0 0 0 0 ∧ t.pc = 0x1003) = true := by decide

theorem test_pchl_V184 : goes [0xE9] { regs := [(.h, 0x20), (.l, 0x40)], pc := 0x1000 }
    (fun t => t.f = fl 0 0 0 0 0 ∧ t.pc = 0x2040) = true := by decide

theorem test_rst_V186 : goes [0xCF] { pc := 0x2000 }
    (fun t => t.callstack = [0x2001] ∧ t.f = fl 0 0 0 0 0 ∧ t.pc = 0x0008) = true := by decide

theorem test_rst_V193 : faults [0xFF] { pc := 0x2000, calls := List.replicate 100 0x0003 }
    (.stackOverflow (.pc 0x2000)) = true := by decide

theorem test_push_V198 : goes [0xF5] { regs := [(.a, 0x80)], f := fl 1 1 1 1 1, sp := 0x3000 }
    (fun t => t.sp = 0x2FFE ∧ t.byteAt 0x2FFE = 0xD5 ∧ t.byteAt 0x2FFF = 0x80 ∧ t.f = fl 1 1 1 1 1
      ∧ t.pc = 0x0101) = true := by decide

theorem test_push_V200 : faults [0xC5] { regs := [(.b, 0x12), (.c, 0x34)], sp := 0x0001 }
    (.invalidMemoryAddress (.address (-1))) = true := by decide

theorem test_pop_V206 : goes [0xF1] { sp := 0x2FFE, mem := [(0x2FFE, 0x2A), (0x2FFF, 0x11)] }
    (fun t => t.reg .a = 0x11 ∧ t.sp = 0x3000 ∧ t.f = fl 0 0 0 0 0 ∧ t.pc = 0x0101) = true := by decide

theorem test_pop_V208 : faults [0xC1] { sp := 0xFFFF, mem := [(0xFFFF, 0x34)] }
    (.invalidMemoryAddress (.address 65536)) = true := by decide

theorem test_xthl_V209 : goes [0xE3]
      { regs := [(.h, 0x0B), (.l, 0x3C)], sp := 0x2FFE, mem := [(0x2FFE, 0xF0), (0x2FFF, 0x0D)] }
    (fun t => t.reg .h = 0x0D ∧ t.reg .l = 0xF0 ∧ t.byteAt 0x2FFE = 0x3C ∧ t.byteAt 0x2FFF = 0x0B
      ∧ t.f = fl 0 0 0 0 0 ∧ t.pc = 0x0101) = true := by decide

theorem test_xthl_V210 : faults [0xE3] { regs := [(.h, 0x0B), (.l, 0x3C)], sp := 0xFFFF }
    (.invalidMemoryAddress (.address 65536)) = true := by decide

theorem test_sphl_V211 : goes [0xF9] { regs := [(.h, 0x40), (.l, 0x00)] }
    (fun t => t.sp = 0x4000 ∧ t.f = fl 0 0 0 0 0 ∧ t.pc = 0x0101) = true := by decide

theorem test_in_V212 : goes [0xDB, 0x10] { ports := [(0x10, 0x7E)] }
    (fun t => t.reg .a = 0x7E ∧ t.f = fl 0 0 0 0 0 ∧ t.pc = 0x0102) = true := by decide

theorem test_in_V213 : goes [0xDB, 0xFF] { regs := [(.a, 0x55)] }
    (fun t => t.reg .a = 0x00 ∧ t.f = fl 0 0 0 0 0 ∧ t.pc = 0x0102) = true := by decide

theorem test_out_V214 : goes [0xD3, 0x01] { regs := [(.a, 0x55)] }
    (fun t => t.portRead 0x01 = 0x55 ∧ t.f = fl 0 0 0 0 0 ∧ t.pc = 0x0102) = true := by decide

theorem test_hlt_V216 : goes [0x76] {}
    (fun t => t.halted = true ∧ t.f = fl 0 0 0 0 0 ∧ t.pc = 0x0101) = true := by decide

theorem test_nop_V217 : goes [0x00] { f := fl 1 1 1 1 1 }
    (fun t => t.f = fl 1 1 1 1 1 ∧ t.pc = 0x0101) = true := by decide

theorem test_ei_V218 : faults [0xFB] {}
    (.unknownInstruction (.byte 0x0100 0xFB)) = true := by decide

theorem test_ei_V219 : goes [0xFB] { cfg := { Params.default with interruptOps := .nop } }
    (fun t => t.f = fl 0 0 0 0 0 ∧ t.pc = 0x0101) = true := by decide

theorem test_di_V220 : goes [0xF3] { cfg := { Params.default with interruptOps := .nop } }
    (fun t => t.f = fl 0 0 0 0 0 ∧ t.pc = 0x0101) = true := by decide

theorem test_rim_V221 : goes [0x20] { regs := [(.a, 0xFF)], cfg := { Params.default with interruptOps := .nop } }
    (fun t => t.reg .a = 0x00 ∧ t.f = fl 0 0 0 0 0 ∧ t.pc = 0x0101) = true := by decide

theorem test_sim_V222 : goes [0x30] { regs := [(.a, 0xFF)], cfg := { Params.default with interruptOps := .nop } }
    (fun t => t.f = fl 0 0 0 0 0 ∧ t.pc = 0x0101) = true := by decide

theorem test_undefined_V223 : faults [0x08] {}
    (.unknownInstruction (.byte 0x0100 0x08)) = true := by decide

theorem test_reset_instruction_R389 :
    goes [0xCB] { regs := [(.a, 0x12)], cfg := { Params.default with resetOpcode := some 0xCB } }
      (fun t => t.reg .a = 0x00 ∧ t.pc = 0x0000 ∧ t.mem = [] ∧ t.halted = true) = true := by decide

/-! ### The engine, the assembler, block mode -/

/-- 40_engine.md R173, R174: the budget comes before presence. -/
theorem test_budget_before_presence_R179 :
    faultOf (step { State.reset with steps := 1000000 }) = some (.stepLimitExceeded (.pc 0x0000))
      ∧ faultOf (step State.reset) = some (.missingReturn 0x0000) := by decide

/-- A run that has ended takes no further step (R177). -/
theorem test_halted_is_refused :
    (match step { State.reset with halted := true } with | .refused w => decide (w = .runEnded) | _ => false) = true := by
  decide

/-- The host's placing of a word, and the step that runs it. -/
theorem test_withFetchWord_runs :
    (nextOf (step (State.reset.withFetchWord 16 0x053E))).map (fun t => (t.reg .a, t.pc)) = some (0x05, 0x0002) := by decide

/-- 35_assembler.md R131 to R134, the errors of section 8.2 of 95_test_vectors.md. -/
theorem test_validator_errors :
    validate Params.default "MOV".toList "A B".toList [] = .error { kind := .missingSeparator, pos := 0 }
      ∧ validate Params.default "MOV".toList "A,Z".toList [] = .error { kind := .invalidRegister ['Z'], pos := 2 }
      ∧ validate Params.default "FOO".toList [] []
          = .error { kind := .unknownInstruction (.word "FOO".toList), pos := 0 } := by decide

/-- The bytes and labels of a two-line program (R150, R155): `JMP X` before `X` is defined. -/
theorem test_assemble_forward_label :
    (match assemble State.reset "JMP X\nX: HLT".toList with
      | .ok (t, x) => decide (t.mem = [(0, 0xC3), (1, 0x03), (3, 0x76)] ∧ t.istart = [0, 3] ∧ x.labels = [(['X'], 3)])
      | .error _ => false) = true := by decide

/-- Pass 1 validates nothing else (R150): an operand error on line 1 comes before an `ORG` outside the memory map. -/
theorem test_org_map_is_checked_in_pass_two :
    let s := State.initial { Params.default with memMapHi := 0x7FFF }
    (match assemble s "MVI A,5H\nORG 8000H".toList with
      | .ok _ => false
      | .error e => decide (e.kind = .syntaxError .immediate8 2 ∧ e.lineNo = 1)) = true
      ∧ (match assemble s "ORG 8000H".toList with
        | .ok _ => false
        | .error e => decide (e.kind = .invalidMemoryAddress (.address 0x8000))) = true := by decide

/-- A state in block mode. -/
def inBlock (b : BlockRun) : State := { State.reset with block := some b }

/-- One block `A`, with the lines given, at a cursor, and an empty block `B`. -/
def blockAt (idx : Nat) (calls : List (Text × Nat)) (lines : List Line) : BlockRun :=
  { blocks := [(['A'], lines), (['B'], [])], first := ['A'], cur := ['A'], idx := idx, callstack := calls }

/-- Vector B2: past the last line. -/
theorem test_block_ambiguous_halt_B2 :
    faultOf (step (inBlock (blockAt 1 [] [⟨"NOP".toList, []⟩]))) = some (.ambiguousHalt ['A']) := by decide

/-- Vector B9: a numeric target names no block; vector B10: `PCHL` names an address. -/
theorem test_block_addresses_B9_B10 :
    faultOf (step (inBlock (blockAt 0 [] [⟨"JMP".toList, "2000H".toList⟩]))) = some (.undefinedLabel "2000H".toList)
      ∧ faultOf (step (inBlock (blockAt 0 [] [⟨"PCHL".toList, []⟩])))
          = some (.unknownInstruction (.word "PCHL".toList)) := by decide

/-! ### Witnesses: the hypotheses of the statements can be met -/

/-- A state with an instruction's bytes at 0100H. -/
def at0100 (bytes : List Byte) : State := Start.state {} bytes

/-- A state with a Call Stack of `n` return points. -/
def depth (n : Nat) : State := { State.reset with callstack := List.replicate n 0x0003 }

/-- The reset state under other parameters. -/
def under (cfg : Params) : State := State.initial cfg

/-- `ADDR_WRAP = wrap`. -/
def wrapping : State := under { Params.default with addrWrap := .wrap }

/-- `INTERRUPT_OPS = nop`. -/
def interruptNop : State := under { Params.default with interruptOps := .nop }

theorem witness_DecodeEncodeRoundTrip :
    (Instr.mov (.reg .a) .m).wf = true ∧ (Instr.undefined 0xFD).wf = true ∧ (Instr.lxi .sp 0xFFFF).wf = true := by decide

theorem witness_ValidatorReadsOperandText :
    ((Instr.jmp 0xFFFF).wf = true ∧ isUndefined (.jmp 0xFFFF) = false
        ∧ (Instr.jmp 0xFFFF ∈ [Instr.ei, Instr.di, Instr.rim, Instr.sim] → Params.default.interruptOps = .nop)
        ∧ Params.default.memMapLo = 0x0000 ∧ Params.default.memMapHi = 0xFFFF)
      ∧ (Instr.ei.wf = true ∧ isUndefined .ei = false ∧ interruptNop.cfg.interruptOps = .nop
        ∧ interruptNop.cfg.memMapLo = 0x0000 ∧ interruptNop.cfg.memMapHi = 0xFFFF) := by decide

/-- A three-byte instruction that ends at the top of memory. -/
def atTop : State := Start.state { pc := 0xFFFD } [0xC3, 0x10, 0x20]

theorem witness_StepRunsDecodedInstruction :
    atTop.halted = false ∧ atTop.block = none ∧ atTop.steps < atTop.cfg.stepLimit ∧ present atTop atTop.pc = true
      ∧ (match decode [atTop.byteAt atTop.pc.toNat, atTop.byteAt (atTop.pc.toNat + 1), atTop.byteAt (atTop.pc.toNat + 2)]
          with | .ok (i, rest) => decide (i = .jmp 0x2010 ∧ rest = []) | .error _ => false) = true
      ∧ atTop.pc.toNat + (Instr.jmp 0x2010).length ≤ 65536 := by decide

theorem witness_StepAdvancesPc :
    (at0100 [0x3E, 0x05]).block = none ∧ fetchChecked (countStep (at0100 [0x3E, 0x05])) = .ok (.mvi (.reg .a) 0x05)
      ∧ writesPc (.mvi (.reg .a) 0x05) = false ∧ (nextOf (step (at0100 [0x3E, 0x05]))).isSome = true := by decide

theorem witness_FetchFaultsInOrder_budget :
    (depth 0).halted = false ∧ (depth 0).block = none
      ∧ ({ depth 0 with steps := 1000000 } : State).cfg.stepLimit ≤ ({ depth 0 with steps := 1000000 } : State).steps := by
  decide

theorem witness_FetchFaultsInOrder_presence :
    State.reset.halted = false ∧ State.reset.block = none ∧ State.reset.steps < State.reset.cfg.stepLimit
      ∧ present State.reset State.reset.pc = false := by decide

theorem witness_FetchFaultsInOrder_lookup :
    let s := at0100 [0xFD]
    s.halted = false ∧ s.block = none ∧ s.steps < s.cfg.stepLimit ∧ present s s.pc = true
      ∧ s.byteAt s.pc.toNat ∈ undefinedBytes ∧ s.cfg.resetOpcode ≠ some (s.byteAt s.pc.toNat) := by decide

/-- The boundary: the last operand byte of the first is just past memory; of the second, its only one. -/
theorem witness_FetchFaultsInOrder_operands :
    (let s := Start.state { pc := 0xFFFE } [0xC3, 0x10]
     s.halted = false ∧ s.block = none ∧ s.steps < s.cfg.stepLimit ∧ present s s.pc = true ∧ s.cfg.addrWrap = .fault
       ∧ 65536 < s.pc.toNat + opLength (s.byteAt s.pc.toNat))
      ∧ (let s := Start.state { pc := 0xFFFF } [0x3E]
         s.halted = false ∧ s.block = none ∧ s.steps < s.cfg.stepLimit ∧ present s s.pc = true ∧ s.cfg.addrWrap = .fault
           ∧ 65536 < s.pc.toNat + opLength (s.byteAt s.pc.toNat)) := by decide

theorem witness_EveryRunEnds : (at0100 [0x76]).halted = false ∧ (at0100 [0x76]).steps < (at0100 [0x76]).cfg.stepLimit := by
  decide

theorem witness_FaultsArePrecise :
    (at0100 [0xC9]).halted = false ∧ (faultOf (step (at0100 [0xC9]))).isSome = true
      ∧ (match assemble State.reset "JMP X".toList with | .ok _ => false | .error _ => true) = true := by decide

theorem witness_StepKeepsInv :
    (at0100 [0xCD, 0x00, 0x20]).Inv ∧ (nextOf (step (at0100 [0xCD, 0x00, 0x20]))).isSome = true
      ∧ (inBlock (blockAt 0 [] [⟨"CALL".toList, ['A']⟩])).Inv
      ∧ (nextOf (step (inBlock (blockAt 0 [] [⟨"CALL".toList, ['A']⟩])))).isSome = true := by decide

theorem witness_StepKeepsParameters : (nextOf (step (at0100 [0x00]))).isSome = true := by decide

theorem witness_ResetIsConstant :
    (at0100 [0x00]).cfg = State.reset.cfg ∧ at0100 [0x00] ≠ State.reset := by decide

theorem witness_ResetInstructionResets :
    (under { Params.default with resetOpcode := some 0x08 }).cfg.resetOpcode = some 0x08 := by decide

/-- A call that is taken, one that is not, a return of each kind, and an instruction of neither class. -/
theorem witness_CallStackWriters :
    (isUndefined (.call 0x2000) = false ∧ isCallClass (.call 0x2000) = true
        ∧ (nextOf (exec (.call 0x2000) (depth 99))).isSome = true)
      ∧ (isUndefined (.cz 0x2000) = false ∧ isCallClass (.cz 0x2000) = true
        ∧ (nextOf (exec (.cz 0x2000) (depth 100))).isSome = true)
      ∧ (isUndefined .ret = false ∧ isRetClass .ret = true ∧ (nextOf (exec .ret (depth 1))).isSome = true)
      ∧ (isUndefined .rz = false ∧ isRetClass .rz = true ∧ (nextOf (exec .rz (depth 0))).isSome = true)
      ∧ (isUndefined .nop = false ∧ isCallClass .nop = false ∧ isRetClass .nop = false
        ∧ (nextOf (exec .nop (depth 0))).isSome = true) := by decide

theorem witness_FlagWriters :
    (isUndefined .nop = false ∧ writesFlags .nop = false ∧ (nextOf (exec .nop State.reset)).isSome = true)
      ∧ (isUndefined (.inr .m) = false ∧ writesFlags (.inr .m) = true ∧ writesCarry (.inr .m) = false
        ∧ (nextOf (exec (.inr .m) State.reset)).isSome = true) := by decide

theorem witness_PortWriters :
    isUndefined (.out 0xFE) = false ∧ (nextOf (exec (.out 0xFE) State.reset)).isSome = true
      ∧ Instr.out 0xFE ≠ .out 0xFF := by decide

theorem witness_SpWriters :
    isUndefined (.inx (.pair .h)) = false ∧ writesSp (.inx (.pair .h)) = false
      ∧ (nextOf (exec (.inx (.pair .h)) State.reset)).isSome = true := by decide

/-- An instruction that stores nothing, and a store that changes a byte. -/
theorem witness_MemoryWriters :
    (isUndefined (.lda 0xFFFF) = false ∧ storesToMemory (.lda 0xFFFF) = false
        ∧ (nextOf (exec (.lda 0xFFFF) State.reset)).isSome = true)
      ∧ (isUndefined (.mvi .m 0x09) = false
        ∧ (nextOf (exec (.mvi .m 0x09) State.reset)).map (fun t => decide (t.byteAt 0 ≠ State.reset.byteAt 0))
          = some true)
      ∧ 7 ∈ ({ State.reset with touched := [7] } : State).touched := by decide

theorem witness_PcAndSessionWriters :
    isUndefined .nop = false ∧ (nextOf (exec .nop State.reset)).isSome = true ∧ writesPc .nop = false
      ∧ Instr.nop ≠ .hlt := by decide

/-- The ends of each clause's range of addresses. -/
theorem witness_WordAccess :
    ((0 : Int) ≤ 0 ∧ (0 : Int) + 1 < 65536) ∧ ((0 : Int) ≤ 65534 ∧ (65534 : Int) + 1 < 65536)
      ∧ (State.reset.cfg.addrWrap = .fault ∧ ((-1 : Int) < 0 ∨ (65536 : Int) ≤ -1))
      ∧ (State.reset.cfg.addrWrap = .fault ∧ ((65536 : Int) < 0 ∨ (65536 : Int) ≤ 65536)) := by decide

/-- The ends of the range; both settings of `ADDR_WRAP`. -/
theorem witness_SlotsOfAnAccess :
    (0 : Int) ≤ 65534 ∧ (65534 : Int) + 1 < 65536 ∧ wrapping.cfg.addrWrap = .wrap
      ∧ State.reset.cfg.addrWrap = .fault ∧ slots State.reset 65534 = .ok (65534, 65535) := by decide

theorem witness_CallPushAndPop :
    (depth 99).callstack.length < (depth 99).cfg.callDepthMax
      ∧ (depth 100).cfg.callDepthMax ≤ (depth 100).callstack.length ∧ (depth 0).callstack = []
      ∧ (depth 1).callstack = [0x0003] := by decide

/-- The highest address within memory, and the top of memory under `ADDR_WRAP = wrap`. -/
theorem witness_LhldAndShld :
    slots State.reset (0xFFFE#16).toNat = .ok (65534, 65535)
      ∧ slots wrapping (0xFFFF#16).toNat = .ok (65535, 0) := by decide

/-- A state with a byte at the address in HL, and Carry set. -/
def withM (v : Byte) : State := Start.state { mem := [(0x0000, v)], f := fl 0 0 0 0 1 } []

theorem witness_AddGroupAdds :
    (Instr.add .m = .add .m ∧ 0xFF = (withM 0xFF).readRM .m) ∧ (Instr.adc .m = .adc .m ∧ true = (withM 0xFF).f.cy)
      ∧ (Instr.aci 0xFF = .aci 0xFF ∧ true = (withM 0xFF).f.cy) ∧ (Instr.adi 0x00 = .adi 0x00 ∧ false = false) := by decide

theorem witness_SubGroupSubtracts :
    (Instr.sub .m = .sub .m ∧ 0xFF = (withM 0xFF).readRM .m) ∧ (Instr.sbb .m = .sbb .m ∧ true = (withM 0xFF).f.cy)
      ∧ (Instr.sbi 0xFF = .sbi 0xFF ∧ true = (withM 0xFF).f.cy) ∧ (Instr.sui 0x00 = .sui 0x00 ∧ false = false) := by decide

theorem witness_CompareWritesFlags :
    (Instr.cmp .m = .cmp .m ∧ 0xFF = (withM 0xFF).readRM .m) ∧ Instr.cpi 0x00 = .cpi 0x00 := by decide

theorem witness_DaaAdjusts :
    0x9B = ((State.reset.setReg .a 0x9B).reg .a).toNat
      ∧ 0xA1 = (if 9 < 0x9B % 16 ∨ (State.reset.setReg .a 0x9B).f.ac = true then 0x9B + 6 else 0x9B)
      ∧ 0x101 = (if 9 < 0xA1 / 16 ∨ (State.reset.setReg .a 0x9B).f.cy = true then 0xA1 + 96 else 0xA1) := by decide

/-- The largest two-digit decimals, with a carry in. -/
theorem witness_DaaAfterDecimalAdd :
    99 < 100 ∧ (Start.state { regs := [(.a, 0x99)], f := fl 0 0 0 0 1 } []).reg .a = bcd 99
      ∧ (nextOf (exec (.aci (bcd 99)) (Start.state { regs := [(.a, 0x99)], f := fl 0 0 0 0 1 } []))).isSome = true := by
  decide

theorem witness_LogicalGroup :
    (Instr.ana .m = .ana .m ∧ 0xFF = (withM 0xFF).readRM .m) ∧ Instr.ani 0x0F = .ani 0x0F
      ∧ (Instr.xra .m = .xra .m ∧ 0xFF = (withM 0xFF).readRM .m) ∧ Instr.xri 0x0F = .xri 0x0F
      ∧ (Instr.ora .m = .ora .m ∧ 0xFF = (withM 0xFF).readRM .m) ∧ Instr.ori 0x0F = .ori 0x0F := by decide

/-- Taken with one place left on the Call Stack; not taken with a full one. -/
theorem witness_Calls :
    ((!(depth 99).f.z) = true ∧ (depth 99).callstack.length < (depth 99).cfg.callDepthMax)
      ∧ (depth 100).f.z = false := by decide

theorem witness_Returns :
    ((!(depth 1).f.z) = true ∧ (depth 1).callstack = [0x0003]) ∧ (depth 0).f.z = false := by decide

theorem witness_CallStackFaults :
    ((depth 100).cfg.callDepthMax ≤ (depth 100).callstack.length ∧ (!(depth 100).f.z) = true)
      ∧ ((depth 0).callstack = [] ∧ (!(depth 0).f.z) = true) := by decide

theorem witness_CallThenReturn :
    isCallClass (.rst 7) = true
      ∧ (nextOf (exec (.rst 7) (depth 99))).map (fun t => decide (t.callstack ≠ (depth 99).callstack)) = some true := by
  decide

/-- The lowest legal `sp`, and under `ADDR_WRAP = wrap` the reset value of `sp`. -/
theorem witness_PushStores :
    (let s := Start.state { sp := 0x0002 } []
     slots s (pushAddr s) = .ok (0, 1)) ∧ slots wrapping (pushAddr wrapping) = .ok (65534, 65535) := by decide

theorem witness_PopLoads :
    (let s := Start.state { sp := 0xFFFE } []
     slots s s.sp.toNat = .ok (65534, 65535)) := by decide

theorem witness_PopAfterPush :
    (nextOf (exec (.push .psw) (Start.state { sp := 0x0002, f := fl 1 1 1 1 1 } []))).isSome = true := by decide

theorem witness_XthlExchanges :
    (let s := Start.state { sp := 0xFFFE } []
     slots s s.sp.toNat = .ok (65534, 65535)) := by decide

theorem witness_WordAccessFaults :
    (let s := Start.state { sp := 0x0001 } []
     s.cfg.addrWrap = .fault ∧ s.sp.toNat < 2) ∧ (State.reset.cfg.addrWrap = .fault ∧ State.reset.sp.toNat < 2)
      ∧ (let s := Start.state { sp := 0xFFFF } []
         s.cfg.addrWrap = .fault ∧ s.sp = 0xFFFF) := by decide

theorem witness_HltNopAndInterruptNops : interruptNop.cfg.interruptOps = .nop := by decide

theorem witness_UnknownInstructions :
    State.reset.cfg.interruptOps = .refuse ∧ State.reset.cfg.resetOpcode ≠ some 0x08 := by decide

theorem witness_BlockOrdinaryLine :
    let b := blockAt 1 [] [⟨"NOP".toList, []⟩, ⟨"LDA".toList, "FFFFH".toList⟩]
    let s := inBlock b
    s.halted = false ∧ s.block = some b ∧ s.steps < s.cfg.stepLimit
      ∧ (blockLines b b.cur)[b.idx]? = some ⟨"LDA".toList, "FFFFH".toList⟩
      ∧ (match checkLine s.cfg "LDA".toList "FFFFH".toList with
          | .ok c => decide (resolve s.cfg [] c = .ok (.lda 0xFFFF))
          | .error _ => false) = true
      ∧ Machine.Instr.category (.lda 0xFFFF) ≠ .branch ∧ Instr.lda 0xFFFF ≠ .hlt ∧ isUndefined (.lda 0xFFFF) = false := by
  decide

/-- The lines of `BlockBranches` with a target that is a block and one that is not. -/
theorem witness_BlockBranches_jump :
    let b := blockAt 0 [] [⟨"JMP".toList, ['B']⟩, ⟨"JMP".toList, ['C']⟩]
    (inBlock b).halted = false ∧ (inBlock b).block = some b ∧ (inBlock b).steps < (inBlock b).cfg.stepLimit
      ∧ (blockLines b b.cur)[b.idx]? = some ⟨"JMP".toList, ['B']⟩ ∧ isIdent ['B'] = true ∧ literal16 ['B'] = none
      ∧ isBlock b ['B'] = true
      ∧ (blockLines b b.cur)[{ b with idx := 1 }.idx]? = some ⟨"JMP".toList, ['C']⟩ ∧ isIdent ['C'] = true
      ∧ literal16 ['C'] = none ∧ isBlock b ['C'] = false := by decide

/-- A call with one place left, one with a full Call Stack, one to an absent block. -/
theorem witness_BlockBranches_call :
    let b := blockAt 0 (List.replicate 99 (['A'], 1)) [⟨"CALL".toList, ['B']⟩, ⟨"CALL".toList, ['C']⟩]
    let full := { b with callstack := List.replicate 100 (['A'], 1) }
    (blockLines b b.cur)[b.idx]? = some ⟨"CALL".toList, ['B']⟩ ∧ isBlock b ['B'] = true
      ∧ b.callstack.length < (inBlock b).cfg.callDepthMax ∧ isBlock full ['B'] = true
      ∧ (inBlock full).cfg.callDepthMax ≤ full.callstack.length
      ∧ (blockLines b b.cur)[{ b with idx := 1 }.idx]? = some ⟨"CALL".toList, ['C']⟩ ∧ isBlock b ['C'] = false := by decide

theorem witness_BlockBranches_return :
    let b := blockAt 0 [(['B'], 3)] [⟨"RET".toList, []⟩]
    let empty := { b with callstack := [] }
    (blockLines b b.cur)[b.idx]? = some ⟨"RET".toList, []⟩ ∧ b.callstack = [(['B'], 3)] ∧ empty.callstack = []
      ∧ isIdent ['X'] = true ∧ literal16 ['X'] = none := by decide

/-- `RESET_MNEMONIC` without a `RESET_OPCODE`. -/
def resetWord : Params := { Params.default with resetMnemonic := some "RESTART".toList }

/-- `HLT`, a conditional return not taken, and the reset word, each at the cursor of a run. -/
theorem witness_BlockBranches_ends :
    let b := blockAt 0 [] [⟨"HLT".toList, []⟩, ⟨"RZ".toList, []⟩, ⟨"RESTART".toList, []⟩]
    let s : State := { under resetWord with block := some { b with idx := 2 } }
    (blockLines b b.cur)[b.idx]? = some ⟨"HLT".toList, []⟩
      ∧ (blockLines b b.cur)[{ b with idx := 1 }.idx]? = some ⟨"RZ".toList, []⟩ ∧ (inBlock b).f.z = false
      ∧ s.halted = false ∧ s.steps < s.cfg.stepLimit ∧ s.cfg.resetMnemonic = some "RESTART".toList
      ∧ s.cfg.resetOpcode = none ∧ ((forms s.cfg).find? (fun row => row.1 == "RESTART".toList)).isNone = true
      ∧ (blockLines b b.cur)[{ b with idx := 2 }.idx]? = some ⟨"RESTART".toList, []⟩ := by decide

/-- Conditional lines, taken and not taken (R407 to R409), and the reset word (R410). -/
theorem test_block_conditions_R407_R410 :
    let b := blockAt 0 [] [⟨"JC".toList, ['B']⟩, ⟨"CNC".toList, ['C']⟩, ⟨"RESTART".toList, []⟩]
    (nextOf (step { inBlock b with f := fl 0 0 0 0 1 })).map (fun t => t.block.map (fun x => (x.cur, x.idx)))
        = some (some (['B'], 0))
      ∧ (nextOf (step { inBlock { b with idx := 1 } with f := fl 0 0 0 0 1 })).map
          (fun t => t.block.map (fun x => (x.cur, x.idx))) = some (some (['A'], 2))
      ∧ (nextOf (step { under resetWord with block := some { b with idx := 2 } })).map (fun t => t.halted)
          = some true := by decide

/-- The lines of `BlockFaults` whose operand is an address or a data label, at the ends of the literals' range. -/
theorem witness_BlockFaults_lines :
    let b := blockAt 0 [] [⟨"PCHL".toList, []⟩, ⟨"RST".toList, ['7']⟩, ⟨"JZ".toList, "FFFFH".toList⟩,
      ⟨"LDA".toList, ['X']⟩, ⟨"LXI".toList, "SP,X".toList⟩]
    (blockLines b b.cur)[b.idx]? = some ⟨"PCHL".toList, []⟩
      ∧ (blockLines b b.cur)[1]? = some ⟨"RST".toList, Machine.Instr.operandText (.rst 7)⟩
      ∧ (blockLines b b.cur)[2]? = some ⟨"JZ".toList, text16 0xFFFF⟩ ∧ inMap (inBlock b).cfg (0xFFFF#16).toNat = true
      ∧ (inBlock b).f.z = false ∧ (blockLines b b.cur)[3]? = some ⟨"LDA".toList, ['X']⟩
      ∧ isIdent ['X'] = true ∧ literal16 ['X'] = none
      ∧ (blockLines b b.cur)[4]? = some ⟨"LXI".toList, PairSp.text .sp ++ ',' :: ['X']⟩ := by decide

/-- The first step past the budget; the last within it, with the cursor just past the block's end. -/
theorem witness_BlockFaults :
    let s := inBlock (blockAt 1 [] [⟨"NOP".toList, []⟩])
    s.halted = false ∧ s.block = some (blockAt 1 [] [⟨"NOP".toList, []⟩])
      ∧ ({ s with steps := 1000000 } : State).cfg.stepLimit ≤ ({ s with steps := 1000000 } : State).steps
      ∧ ({ s with steps := 999999 } : State).steps < ({ s with steps := 999999 } : State).cfg.stepLimit
      ∧ (blockLines (blockAt 1 [] [⟨"NOP".toList, []⟩]) ['A']).length ≤ 1 := by decide

theorem witness_AbsentLabelIsUndefined :
    isIdent "NOWHERE".toList = true ∧ literal16 "NOWHERE".toList = none
      ∧ labelAddr [(['X'], 3)] "NOWHERE".toList = none := by decide

theorem witness_AssembleKeepsInv :
    State.reset.Inv ∧ (match assemble State.reset "ORG FFFFH\nHLT".toList with | .ok _ => true | .error _ => false) = true := by
  decide

end Sys2Proof.Tests
end

section
/-! SUPPORT. What `Instr.writes` says of each class of instructions, what a branch can do, and the canonical form of memory,
ports and `touched` through every instruction: the facts that the statements of 10_state.md are assembled from. -/

namespace Sys2Proof.Machine

/-! ### What an instruction may write, by its class -/

theorem RegM.writes_fields (s : State) (d : RegM) :
    (RegM.writes s d).ports = [] ∧ (RegM.writes s d).sp = false ∧ (RegM.writes s d).flags = false
      ∧ (RegM.writes s d).calls = false := by
  cases d <;> exact ⟨rfl, rfl, rfl, rfl⟩

theorem PairSp.writes_fields (p : PairSp) :
    (PairSp.writes p).ports = [] ∧ (PairSp.writes p).sp = decide (p = .sp) ∧ (PairSp.writes p).flags = false
      ∧ (PairSp.writes p).calls = false := by
  cases p <;> exact ⟨rfl, rfl, rfl, rfl⟩

theorem PairPsw.writes_fields (p : PairPsw) :
    (PairPsw.writes p).ports = [] ∧ (PairPsw.writes p).sp = true ∧ (PairPsw.writes p).flags = decide (p = .psw)
      ∧ (PairPsw.writes p).calls = false := by
  cases p <;> exact ⟨rfl, rfl, rfl, rfl⟩

/-- The frame names a port for `OUT` alone (10_state.md R33). -/
theorem mem_writes_ports (s : State) (i : Instr) (p : Byte) (h : p ∈ (Instr.writes s i).ports) : i = .out p := by
  cases i
  case out q => rw [List.mem_singleton.1 h]
  case mov d _ | mvi d _ | inr d | dcr d => simp [Instr.writes, RegM.writes_fields] at h
  case lxi q _ | inx q | dcx q => simp [Instr.writes, PairSp.writes_fields] at h
  case pop q => simp [Instr.writes, PairPsw.writes_fields] at h
  all_goals cases h

/-- The frame names `sp` for the writers of 10_state.md R25 alone. -/
theorem writes_sp (s : State) (i : Instr) : (Instr.writes s i).sp = writesSp i := by
  cases i
  case mov d _ | mvi d _ | inr d | dcr d => simp [Instr.writes, writesSp, RegM.writes_fields]
  case lxi q _ | inx q | dcx q => simp [Instr.writes, writesSp, PairSp.writes_fields]
  case pop q => simp [Instr.writes, writesSp, PairPsw.writes_fields]
  all_goals rfl

/-- The frame names the flags for the rows of the flag table alone (10_state.md R28). -/
theorem writes_flags (s : State) (i : Instr) : (Instr.writes s i).flags = writesFlags i := by
  cases i
  case mov d _ | mvi d _ => simp [Instr.writes, writesFlags, RegM.writes_fields]
  case lxi q _ | inx q | dcx q => simp [Instr.writes, writesFlags, PairSp.writes_fields]
  case pop q => simp [Instr.writes, writesFlags, PairPsw.writes_fields]
  all_goals rfl

/-- The frame names the Call Stack for Branch instructions alone (10_state.md R36). -/
theorem writes_calls_of_not_writesPc (s : State) (i : Instr) (h : writesPc i = false) :
    (Instr.writes s i).calls = false := by
  cases i
  case mov d _ | mvi d _ | inr d | dcr d => simp [Instr.writes, RegM.writes_fields]
  case lxi q _ | inx q | dcx q => simp [Instr.writes, PairSp.writes_fields]
  case pop q => simp [Instr.writes, PairPsw.writes_fields]
  all_goals first | rfl | cases h

/-! ### What a frame keeps -/

theorem Only.portRead_eq {w : Writes} {s t : State} (h : Only w s t) {p : Byte} (hp : p ∉ w.ports) :
    t.portRead p = s.portRead p := by
  obtain ⟨-, -, -, h, -⟩ := h
  exact h p hp

theorem Only.sp_eq {w : Writes} {s t : State} (h : Only w s t) (hw : w.sp = false) : t.sp = s.sp := by
  obtain ⟨-, -, -, -, -, h, -⟩ := h
  exact h hw

theorem Only.f_eq {w : Writes} {s t : State} (h : Only w s t) (hw : w.flags = false) : t.f = s.f := by
  obtain ⟨-, -, -, -, -, -, h, -⟩ := h
  exact h hw

theorem Only.callstack_eq {w : Writes} {s t : State} (h : Only w s t) (hw : w.calls = false) :
    t.callstack = s.callstack := by
  obtain ⟨-, -, -, -, -, -, -, h, -⟩ := h
  exact h hw

theorem Only.session_eq {w : Writes} {s t : State} (h : Only w s t) :
    t.steps = s.steps ∧ t.istart = s.istart ∧ t.block = s.block ∧ t.cfg = s.cfg := by
  obtain ⟨-, -, -, -, -, -, -, -, -, hsteps, histart, -, -, hblock, hcfg, -⟩ := h
  exact ⟨hsteps, histart, hblock, hcfg⟩

/-! ### What a branch can do (44_branch.md R310) -/

/-- A conditional form leaves `pc` alone written, or does what its taken form does. -/
theorem whenTaken_next {ccc : Cond} {len : Word} {taken : State → Except Fault State} {s t : State}
    (h : whenTaken ccc len taken s = .next t) : (∃ w, t = s.setPc w) ∨ taken s = .ok t := by
  rcases (whenTaken_next_iff _ _ _ _ _).1 h with ⟨-, h⟩ | ⟨-, h⟩
  · exact .inr h
  · exact .inl ⟨_, h⟩

theorem jumpTo_ok {a : Word} {s t : State} (h : jumpTo a s = .ok t) : ∃ w, t = s.setPc w :=
  ⟨a, (Except.ok.inj h).symm⟩

/-- Everything a Branch instruction can do with a next state: write `pc` alone, call, or return. -/
theorem exec_branch_next (i : Instr) (s t : State) (hb : writesPc i = true) (hu : isUndefined i = false)
    (h : exec i s = .next t) :
    (∃ w, t = s.setPc w) ∨ (isCallClass i = true ∧ ∃ len a, callTo len a s = .ok t)
      ∨ (isRetClass i = true ∧ returnFrom s = .ok t) := by
  cases i <;> simp only [writesPc, Bool.false_eq_true] at hb <;> simp only [exec] at h
  case undefined op => cases hu
  case jmp a | pchl => exact .inl (jumpTo_ok ((ofExcept_next_iff _ _).1 h))
  case jnz a | jz a | jnc a | jc a | jpo a | jpe a | jp a | jm a =>
    exact .inl ((whenTaken_next h).elim id jumpTo_ok)
  case call a | rst n => exact .inr (.inl ⟨rfl, _, _, (ofExcept_next_iff _ _).1 h⟩)
  case cnz a | cz a | cnc a | cc a | cpo a | cpe a | cp a | cm a =>
    exact (whenTaken_next h).imp_right fun ht => .inl ⟨rfl, _, _, ht⟩
  case ret => exact .inr (.inr ⟨rfl, (ofExcept_next_iff _ _).1 h⟩)
  case rnz | rz | rnc | rc | rpo | rpe | rp | rm =>
    exact (whenTaken_next h).imp_right fun ht => .inr ⟨rfl, ht⟩

/-- Everything an instruction can do to the Call Stack: nothing, a push by a call with room for it, a pop by a return. -/
theorem exec_callstack (i : Instr) (s t : State) (hu : isUndefined i = false) (h : exec i s = .next t) :
    t.callstack = s.callstack
      ∨ (isCallClass i = true ∧ s.callstack.length < s.cfg.callDepthMax ∧ ∃ x, t.callstack = x :: s.callstack)
      ∨ (isRetClass i = true ∧ ∃ x, s.callstack = x :: t.callstack) := by
  cases hb : writesPc i with
  | false => exact .inl ((exec_only i s t hu h).callstack_eq (writes_calls_of_not_writesPc s i hb))
  | true =>
    rcases exec_branch_next i s t hb hu h with ⟨w, rfl⟩ | ⟨hc, len, a, ht⟩ | ⟨hr, ht⟩
    · exact .inl rfl
    · obtain ⟨hroom, rfl⟩ := (callTo_ok_iff _ _ _ _).1 ht
      exact .inr (.inl ⟨hc, hroom, _, rfl⟩)
    · obtain ⟨x, rest, hx, rfl⟩ := (returnFrom_ok_iff _ _).1 ht
      exact .inr (.inr ⟨hr, x, hx⟩)

/-- No instruction is both a call and a return. -/
theorem isRetClass_of_isCallClass (i : Instr) (h : isCallClass i = true) : isRetClass i = false := by
  cases i <;> first | rfl | cases h

/-! ### The canonical form of what instructions store to -/

/-- Memory, ports and `touched` are in their canonical form (10_state.md R32, R33, R42). -/
def Canonical (s : State) : Prop :=
  Memory.wf s.mem = true ∧ Ports.wf s.cfg.resetPort s.ports = true ∧ addrsWf s.touched = true

theorem canonical_storeByte {s : State} (hs : Canonical s) {a : Nat} (ha : a < 65536) (v : Byte) :
    Canonical (s.storeByte a v) := by
  obtain ⟨hmem, hports, htouched⟩ := hs
  exact ⟨storeByte_wf s a v ha hmem, hports, addrInsert_wf s.touched a ha htouched⟩

theorem canonical_store {s : State} (hs : Canonical s) (w : Word) (v : Byte) : Canonical (s.store w v) :=
  canonical_storeByte hs w.isLt v

theorem canonical_portWrite {s : State} (hs : Canonical s) (p v : Byte) : Canonical (s.portWrite p v) := by
  obtain ⟨hmem, hports, htouched⟩ := hs
  exact ⟨hmem, portWrite_wf s p v hports, htouched⟩

theorem canonical_writeRM {s : State} (hs : Canonical s) (d : RegM) (v : Byte) : Canonical (s.writeRM d v) := by
  cases d with
  | reg x => exact hs
  | m => exact canonical_store hs _ v

theorem canonical_writePairSp {s : State} (hs : Canonical s) (p : PairSp) (v : Word) :
    Canonical (s.writePairSp p v) := by
  cases p <;> exact hs

theorem canonical_writePairPsw {s : State} (hs : Canonical s) (p : PairPsw) (v : Word) :
    Canonical (s.writePairPsw p v) := by
  cases p <;> exact hs

/-- A 16-bit store writes within memory wherever it answers a state. -/
theorem canonical_memWrite2 {s t : State} (hs : Canonical s) {a : Int} {v : Word} (h : memWrite2 s a v = .ok t) :
    Canonical t := by
  obtain ⟨x, y, hxy, rfl⟩ := (memWrite2_ok_iff _ _ _ _).1 h
  obtain ⟨hx, hy⟩ := slots_lt s a x y hxy
  exact canonical_storeByte (canonical_storeByte hs hx _) hy _

/-- Branches store nothing (44_branch.md R310). -/
theorem exec_branch_canonical (i : Instr) (s t : State) (hb : writesPc i = true) (hu : isUndefined i = false)
    (hs : Canonical s) (h : exec i s = .next t) : Canonical t := by
  rcases exec_branch_next i s t hb hu h with ⟨w, rfl⟩ | ⟨-, len, a, ht⟩ | ⟨-, ht⟩
  · exact hs
  · obtain ⟨-, rfl⟩ := (callTo_ok_iff _ _ _ _).1 ht
    exact hs
  · obtain ⟨x, rest, -, rfl⟩ := (returnFrom_ok_iff _ _).1 ht
    exact hs

/-- Every other instruction stores by `storeByte` and `portWrite` alone, at addresses of memory. -/
theorem exec_nonbranch_canonical (i : Instr) (s t : State) (hb : writesPc i = false) (hs : Canonical s)
    (h : exec i s = .next t) : Canonical t := by
  cases i <;> simp only [writesPc, Bool.true_eq_false] at hb <;> simp only [exec] at h
  case mov d _ | mvi d _ | inr d | dcr d => cases h; exact canonical_writeRM hs d _
  case lxi p _ | inx p | dcx p => cases h; exact canonical_writePairSp hs p _
  case sta a => cases h; exact canonical_store hs a _
  case stax p => cases h; exact canonical_store hs _ _
  case out p => cases h; exact canonical_portWrite hs p _
  case lhld a =>
    obtain ⟨v, -, rfl⟩ := execLhld_next a s t h
    exact hs
  case shld a => exact canonical_memWrite2 hs ((ofExcept_next_iff _ t).1 h)
  case push p =>
    obtain ⟨u, hu, rfl⟩ := execPush_next p s t h
    have hcanon : Canonical u := canonical_memWrite2 hs hu
    exact hcanon
  case pop p =>
    obtain ⟨v, -, rfl⟩ := execPop_next p s t h
    exact canonical_writePairPsw hs p v
  case xthl =>
    obtain ⟨v, u, -, hu, rfl⟩ := execXthl_next s t h
    have hcanon : Canonical u := canonical_memWrite2 hs hu
    exact hcanon
  case ei | di | rim | sim =>
    obtain ⟨-, rfl⟩ := (interruptOp_next_iff _ _ _ _).1 h
    exact hs
  all_goals cases h; exact hs

theorem exec_canonical (i : Instr) (s t : State) (hu : isUndefined i = false) (hs : Canonical s)
    (h : exec i s = .next t) : Canonical t := by
  cases hb : writesPc i with
  | false => exact exec_nonbranch_canonical i s t hb hs h
  | true => exact exec_branch_canonical i s t hb hu hs h

end Sys2Proof.Machine
end

section
/-! SUPPORT. The invariant of a state through reset, an instruction, the engine and the cursor of block mode. -/

namespace Sys2Proof.Machine

/-! ### The invariant as its parts -/

/-- The bound of the Call Stack of a block run, if there is one (10_state.md R36, R37). -/
def BlockBounded (max : Nat) (b : BlockRun) : Prop := b.callstack.length ≤ max

theorem inv_iff (s : State) :
    s.Inv ↔ Canonical s ∧ addrsWf s.istart = true ∧ s.callstack.length ≤ s.cfg.callDepthMax
      ∧ (∀ b, s.block = some b → BlockBounded s.cfg.callDepthMax b) ∧ s.steps ≤ s.cfg.stepLimit := by
  simp only [State.Inv, Canonical, BlockBounded, Option.all_eq_true, decide_eq_true_eq]
  tauto

/-- The invariant does not speak of `pc`. -/
theorem inv_advance {s : State} (hs : s.Inv) (i : Instr) : (advance i s).Inv := by
  unfold advance
  split <;> exact hs

/-- Counting a step keeps the invariant within the budget (40_engine.md R173). -/
theorem inv_countStep {s : State} (hs : s.Inv) (hbudget : s.steps + 1 ≤ s.cfg.stepLimit) : (countStep s).Inv := by
  obtain ⟨hmem, hports, histart, htouched, hcalls, hblock, -⟩ := hs
  exact ⟨hmem, hports, histart, htouched, hcalls, hblock, hbudget⟩

/-- Another block run whose Call Stack is within the bound keeps the invariant. -/
theorem inv_setBlock {s : State} (hs : s.Inv) {b : BlockRun} (hb : BlockBounded s.cfg.callDepthMax b) :
    State.Inv { s with block := some b } := by
  obtain ⟨hmem, hports, histart, htouched, hcalls, -, hsteps⟩ := hs
  exact ⟨hmem, hports, histart, htouched, hcalls, decide_eq_true hb, hsteps⟩

/-! ### Reset -/

theorem initial_inv (cfg : Params) : (State.initial cfg).Inv := by
  obtain ⟨hmem, hports⟩ := initial_wf cfg
  exact ⟨hmem, hports, rfl, rfl, Nat.zero_le _, rfl, Nat.zero_le _⟩

/-- The invariant does not speak of `halted`, all that the reset instruction adds to the reset operation (R389). -/
theorem resetInstruction_inv (s : State) : (resetInstruction s).Inv := initial_inv s.cfg

/-! ### An instruction -/

/-- An instruction leaves a Call Stack within `CALL_DEPTH_MAX` (10_state.md R37). -/
theorem exec_callstack_length (i : Instr) (s t : State) (hu : isUndefined i = false) (h : exec i s = .next t)
    (hs : s.callstack.length ≤ s.cfg.callDepthMax) : t.callstack.length ≤ s.cfg.callDepthMax := by
  rcases exec_callstack i s t hu h with he | ⟨-, hroom, x, he⟩ | ⟨-, x, he⟩
  · rwa [he]
  · rw [he]; exact hroom
  · rw [he] at hs; exact Nat.le_of_succ_le hs

/-- An undefined byte that answers a next state is the reset instruction (46_machine_control.md R389). -/
theorem exec_next_of_isUndefined (i : Instr) (s t : State) (hu : isUndefined i = true) (h : exec i s = .next t) :
    t = resetInstruction s := by
  cases i <;> simp only [isUndefined, Bool.false_eq_true] at hu
  case undefined op =>
    obtain ⟨-, ht⟩ := (execUndefined_next_iff op s t).1 h
    exact ht

/-- No instruction changes the parameters, the reset instruction included (70_reset_and_hazards.md R482 (b)). -/
theorem exec_cfg (i : Instr) (s t : State) (h : exec i s = .next t) : t.cfg = s.cfg := by
  cases hu : isUndefined i with
  | true => rw [exec_next_of_isUndefined i s t hu h]; rfl
  | false =>
    obtain ⟨-, -, -, hcfg⟩ := (exec_only i s t hu h).session_eq
    exact hcfg

/-- Every instruction keeps the invariant, the reset instruction included. -/
theorem exec_inv (i : Instr) (s t : State) (hs : s.Inv) (h : exec i s = .next t) : t.Inv := by
  cases hu : isUndefined i with
  | true => rw [exec_next_of_isUndefined i s t hu h]; exact resetInstruction_inv s
  | false =>
    obtain ⟨hcanon, histart, hcalls, hblock, hsteps⟩ := (inv_iff s).1 hs
    obtain ⟨esteps, eistart, eblock, ecfg⟩ := (exec_only i s t hu h).session_eq
    rw [inv_iff, esteps, eistart, eblock, ecfg]
    exact ⟨exec_canonical i s t hu hcanon h, histart, exec_callstack_length i s t hu h hcalls, hblock, hsteps⟩

/-! ### Block mode -/

/-- Everything acting on an outcome can answer: the state itself at a halt, and else the state with the cursor moved and
the Call Stack of the run as it was, pushed with room for it, or popped (47_block_mode.md R404). -/
theorem actOn_ok {b : BlockRun} {o : HandlerOutcome} {ok : Bool} {s t : State} (h : actOn b o ok s = .ok t) :
    t = s ∨ ∃ b', t = { s with block := some b' } ∧
      (b'.callstack = b.callstack
        ∨ (b.callstack.length < s.cfg.callDepthMax ∧ ∃ x, b'.callstack = x :: b.callstack)
        ∨ ∃ x, b.callstack = x :: b'.callstack) := by
  cases o with
  | normal | notTaken => cases h; exact .inr ⟨_, rfl, .inl rfl⟩
  | halt => cases h; exact .inl rfl
  | target label isCall =>
    simp only [actOn] at h
    split at h
    · cases h
    split at h
    · cases h; exact .inr ⟨_, rfl, .inl rfl⟩
    split at h
    · cases h
    · next hroom => cases h; exact .inr ⟨_, rfl, .inr (.inl ⟨Nat.lt_of_not_ge hroom, _, rfl⟩)⟩
  | ret =>
    simp only [actOn] at h
    split at h
    · cases h
    · next hcalls => cases h; exact .inr ⟨_, rfl, .inr (.inr ⟨_, hcalls⟩)⟩

theorem actOn_inv {b : BlockRun} {o : HandlerOutcome} {ok : Bool} {s t : State} (hs : s.Inv)
    (hb : BlockBounded s.cfg.callDepthMax b) (h : actOn b o ok s = .ok t) : t.Inv := by
  rcases actOn_ok h with rfl | ⟨b', rfl, he | ⟨hroom, x, he⟩ | ⟨x, he⟩⟩
  · exact hs
  · exact inv_setBlock hs (by rwa [BlockBounded, he])
  · exact inv_setBlock hs (by rw [BlockBounded, he]; exact hroom)
  · rw [BlockBounded, he] at hb
    exact inv_setBlock hs (Nat.le_of_succ_le hb)

/-- Everything a line's linear-mode meaning and the cursor can do with a next state (47_block_mode.md R406). -/
theorem runOrdinary_next {b : BlockRun} {o : HandlerOutcome} {i : Instr} {s t : State}
    (h : runOrdinary b o i s = .next t) : ∃ u, exec i s = .next u ∧ actOn b o true u = .ok t := by
  unfold runOrdinary at h
  split at h
  · next u hu => exact ⟨u, hu, (ofExcept_next_iff _ _).1 h⟩
  · cases h
  · cases h

/-- Everything a checked line can do with a next state: its handler leaves the state, runs an instruction or resets, and
then its outcome is acted on (47_block_mode.md R404). -/
theorem runLine_next {b : BlockRun} {word : Text} {c : Checked} {s t : State} (h : runLine b word c s = .next t) :
    ∃ o ok u, (u = s ∨ (∃ i, exec i s = .next u) ∨ u = resetInstruction s) ∧ actOn b o ok u = .ok t := by
  unfold runLine at h
  split at h
  · cases h
  · split at h
    · cases h
    · next i _ =>
      obtain ⟨u, hu, ht⟩ := runOrdinary_next h
      exact ⟨_, _, u, .inr (.inl ⟨i, hu⟩), ht⟩
  · obtain ⟨u, hu, ht⟩ := runOrdinary_next h
    exact ⟨_, _, u, .inr (.inl ⟨_, hu⟩), ht⟩
  · exact ⟨_, _, _, .inr (.inr rfl), (ofExcept_next_iff _ _).1 h⟩
  · exact ⟨_, _, s, .inl rfl, (ofExcept_next_iff _ _).1 h⟩

theorem runLine_inv {b : BlockRun} {word : Text} {c : Checked} {s t : State} (hs : s.Inv)
    (hb : BlockBounded s.cfg.callDepthMax b) (h : runLine b word c s = .next t) : t.Inv := by
  obtain ⟨o, ok, u, rfl | ⟨i, hu⟩ | rfl, ht⟩ := runLine_next h
  · exact actOn_inv hs hb ht
  · exact actOn_inv (exec_inv i s u hs hu) (by rwa [exec_cfg i s u hu]) ht
  · exact actOn_inv (resetInstruction_inv s) hb ht

/-! ### A step -/

theorem linearStep_inv {s t : State} (hs : s.Inv) (h : linearStep s = .next t) : t.Inv := by
  obtain ⟨i, u, hbudget, -, -, hu, rfl⟩ := linearStep_next s t h
  exact inv_advance (exec_inv i _ u (inv_countStep hs hbudget) hu) i

theorem blockStep_inv {b : BlockRun} {s t : State} (hs : s.Inv) (hb : s.block = some b)
    (h : blockStep b s = .next t) : t.Inv := by
  obtain ⟨word, c, hbudget, ht⟩ := blockStep_next b s t h
  obtain ⟨-, -, -, hblock, -⟩ := (inv_iff s).1 hs
  exact runLine_inv (inv_countStep hs hbudget) (hblock b hb) ht

end Sys2Proof.Machine
end

section
/-! SUPPORT. The statements of 10_state.md: the invariant, the writers of each field, pairs and the Call Stack. -/

namespace Sys2Proof.Machine

/-! ### The invariant -/

/-- Settles O11: either engine counts the step, runs an instruction or acts on the cursor, and each of these keeps the
invariant. -/
theorem stepKeepsInv : Obligations.StepKeepsInv := by
  intro s t hs h
  obtain ⟨-, ⟨-, hlin⟩ | ⟨b, hb, hblk⟩⟩ := step_next s t h
  · exact linearStep_inv hs hlin
  · exact blockStep_inv hs hb hblk

/-- Settles O12: the initial state of any parameters has the invariant. -/
theorem resetHasInv : Obligations.ResetHasInv :=
  ⟨initial_inv Params.default, fun s => initial_inv s.cfg⟩

/-! ### The writers of each field -/

/-- Settles O17 from `exec_callstack`. -/
theorem callStackWriters : Obligations.CallStackWriters := by
  intro i s t hu h
  rcases exec_callstack i s t hu h with he | ⟨hcall, -, hpush⟩ | ⟨hret, hpop⟩
  · exact ⟨fun _ _ => he, fun _ => .inl he, fun _ => .inl he⟩
  · have hnret := isRetClass_of_isCallClass i hcall
    exact ⟨fun hc => by simp [hcall] at hc, fun _ => .inr hpush, fun hr => by simp [hnret] at hr⟩
  · refine ⟨fun _ hr => by simp [hret] at hr, fun hc => ?_, fun _ => .inr hpop⟩
    simp [isRetClass_of_isCallClass i hc] at hret

/-- `INR` and `DCR` keep Carry (42_arithmetic.md R245, R247). -/
theorem execInr_cy {d : RegM} {s t : State} (h : execInr d s = .next t) : t.f.cy = s.f.cy := by
  cases h; rfl

theorem execDcr_cy {d : RegM} {s t : State} (h : execDcr d s = .next t) : t.f.cy = s.f.cy := by
  cases h; rfl

/-- The two mnemonics with a row in the flag table but no Carry in it (10_state.md R28). -/
theorem writesFlags_of_not_writesCarry (i : Instr) (h : writesCarry i = false) :
    writesFlags i = false ∨ ∃ d, i = .inr d ∨ i = .dcr d := by
  cases i
  case inr d => exact .inr ⟨d, .inl rfl⟩
  case dcr d => exact .inr ⟨d, .inr rfl⟩
  all_goals exact .inl h

/-- Settles O18: the frame gives the flags, and INR and DCR carry the old Carry over. -/
theorem flagWriters : Obligations.FlagWriters := by
  intro i s t hu h
  have hflags : writesFlags i = false → t.f = s.f := fun hw =>
    (exec_only i s t hu h).f_eq ((writes_flags s i).trans hw)
  refine ⟨hflags, fun hw => ?_⟩
  rcases writesFlags_of_not_writesCarry i hw with hw | ⟨d, rfl | rfl⟩
  · rw [hflags hw]
  · exact execInr_cy h
  · exact execDcr_cy h

/-- Settles O19: no frame but that of `OUT p` names the port `p`. -/
theorem portWriters : Obligations.PortWriters := by
  intro i s t p hu h hi
  exact (exec_only i s t hu h).portRead_eq fun hp => hi (mem_writes_ports s i p hp)

/-- Settles O20: no other frame names `sp`. -/
theorem spWriters : Obligations.SpWriters := by
  intro i s t hu h hw
  exact (exec_only i s t hu h).sp_eq ((writes_sp s i).trans hw)

/-! ### Pairs (10_state.md R22) -/

theorem Pair.hiReg_ne_loReg (p : Pair) : Pair.hiReg p ≠ Pair.loReg p := by
  cases p <;> decide

theorem State.pair_toNat (s : State) (p : Pair) :
    (s.pair p).toNat = (s.reg (Pair.hiReg p)).toNat * 256 + (s.reg (Pair.loReg p)).toNat := cat_toNat _ _

@[simp] theorem State.reg_setPair_hiReg (s : State) (p : Pair) (v : Word) :
    (s.setPair p v).reg (Pair.hiReg p) = hi v := by
  simp [State.setPair, Pair.hiReg_ne_loReg]

@[simp] theorem State.reg_setPair_loReg (s : State) (p : Pair) (v : Word) :
    (s.setPair p v).reg (Pair.loReg p) = lo v := by
  simp [State.setPair]

@[simp] theorem State.pair_setPair (s : State) (p : Pair) (v : Word) : (s.setPair p v).pair p = v := by
  simp [State.pair]

/-- Settles O23: the value law, the write back of both halves with its frame, and a write to a half. -/
theorem pairsAreViews : Obligations.PairsAreViews := by
  intro s p
  refine ⟨s.pair_toNat p, fun v => ⟨s.pair_setPair p v, ?_, ?_, only_setPair s p v⟩, fun b => ⟨?_, ?_⟩⟩
  · rw [State.reg_setPair_hiReg, hi_toNat]
  · rw [State.reg_setPair_loReg, lo_toNat]
  · simp [State.pair_toNat, (Pair.hiReg_ne_loReg p).symm]
  · simp [State.pair_toNat, Pair.hiReg_ne_loReg p]

/-! ### The Call Stack (10_state.md R37, R38) -/

/-- A push faults exactly at `CALL_DEPTH_MAX`. -/
theorem callPush_full (s : State) (x : Word) (h : s.cfg.callDepthMax ≤ s.callstack.length) :
    callPush s x = .error (.stackOverflow (.pc s.pc)) := if_pos h

theorem callPop_empty (s : State) (h : s.callstack = []) : callPop s = .error (.stackUnderflow (.pc s.pc)) := by
  simp [callPop, h, raise]

/-- Settles O26: the two answers of each operation. -/
theorem callPushAndPop : Obligations.CallPushAndPop := by
  intro s x
  exact ⟨fun hroom => (callPush_ok_iff s _ x).2 ⟨hroom, rfl⟩, callPush_full s x, callPop_empty s,
    fun rest hx => (callPop_ok_iff s _ x).2 ⟨rest, hx, rfl⟩⟩

end Sys2Proof.Machine
end

section
/-! SUPPORT. The cells of a 16-bit access by the range of its address, what a 16-bit store leaves to be read, where the
16-bit instructions fault, and the frame's part in memory: the facts that the statements of 20_memory.md are assembled
from. -/

namespace Sys2Proof.Machine

/-! ### The cells of a 16-bit access (20_memory.md R61 to R63) -/

theorem slots_inRange (s : State) (a : Int) (h0 : 0 ≤ a) (h1 : a + 1 < 65536) :
    slots s a = .ok (a.toNat, (a + 1).toNat) :=
  (slots_ok_iff s a _ _).2 ⟨effAddr_inRange s a (by omega), effAddr_inRange s (a + 1) (by omega)⟩

/-- Under `ADDR_WRAP = wrap` every address names its value modulo 65536 (log entry 7); within range that is itself. -/
theorem effAddr_wrap (s : State) (a : Int) (hw : s.cfg.addrWrap = .wrap) :
    effAddr s a = .ok (a % 65536).toNat := by
  rw [effAddr_ok_iff]
  by_cases h : 0 ≤ a ∧ a < 65536
  · exact .inl ⟨h.1, h.2, by rw [Int.emod_eq_of_lt h.1 h.2]⟩
  · exact .inr ⟨h, hw, rfl⟩

/-- Under `ADDR_WRAP = fault` an address that names a cell is within range. -/
theorem inRange_of_effAddr_ok {s : State} {a : Int} {x : Nat} (hf : s.cfg.addrWrap = .fault)
    (h : effAddr s a = .ok x) : 0 ≤ a ∧ a < 65536 := by
  rcases (effAddr_ok_iff s a x).1 h with ⟨h0, h1, -⟩ | ⟨-, hw, -⟩
  · exact ⟨h0, h1⟩
  · rw [hf] at hw
    cases hw

/-- The lower address is outside: it is the first that fails. -/
theorem slots_fault_outside (s : State) (a : Int) (hf : s.cfg.addrWrap = .fault) (ha : a < 0 ∨ 65536 ≤ a) :
    slots s a = .error (.invalidMemoryAddress (.address a)) :=
  (slots_error_iff s a _).2 (.inl ((effAddr_error_iff s a _).2 ⟨by omega, hf, rfl⟩))

/-- At the top of memory the lower address is within, and the upper one fails. -/
theorem slots_fault_top (s : State) (hf : s.cfg.addrWrap = .fault) :
    slots s 65535 = .error (.invalidMemoryAddress (.address 65536)) := by
  have hlow : effAddr s 65535 = .ok 65535 := effAddr_inRange s 65535 (by decide)
  have hhigh : effAddr s (65535 + 1) = .error (.invalidMemoryAddress (.address 65536)) :=
    (effAddr_error_iff s _ _).2 ⟨by decide, hf, rfl⟩
  exact (slots_error_iff s 65535 _).2 (.inr ⟨65535, hlow, hhigh⟩)

/-! ### 16-bit accesses (20_memory.md R63 to R65) -/

theorem slotCells_of_slots {s : State} {a : Int} {x y : Nat} (h : slots s a = .ok (x, y)) :
    slotCells s a = [x, y] := by
  simp [slotCells, h]

/-- The two bytes that a 16-bit store leaves in its cells: the second store misses the first cell. -/
theorem memWrite2_byteAt {s t : State} {a : Int} {v : Word} {x y : Nat} (hs : slots s a = .ok (x, y))
    (h : memWrite2 s a v = .ok t) : t.byteAt x = lo v ∧ t.byteAt y = hi v := by
  obtain ⟨x', y', hs', rfl⟩ := (memWrite2_ok_iff _ _ _ _).1 h
  cases hs.symm.trans hs'
  simp [slots_ne s a x y hs]

/-- A word stored reads back. -/
theorem memRead2_of_memWrite2 {s t : State} {a : Int} {v : Word} (h : memWrite2 s a v = .ok t) :
    memRead2 t a = .ok v := by
  obtain ⟨x, y, hs, -⟩ := (memWrite2_ok_iff _ _ _ _).1 h
  obtain ⟨hlo, hhi⟩ := memWrite2_byteAt hs h
  obtain ⟨-, -, -, hcfg⟩ := (only_memWrite2 s t a v h).session_eq
  exact (memRead2_ok_iff t a v).2 ⟨x, y, (slots_congr s t a hcfg).trans hs, by rw [hlo, hhi, cat_hi_lo]⟩

/-- Both accesses fault where the cells do. -/
theorem access2_error {s : State} {a : Int} {k : Fault} (v : Word) (h : slots s a = .error k) :
    memRead2 s a = .error k ∧ memWrite2 s a v = .error k :=
  ⟨(memRead2_error_iff s a k).2 h, (memWrite2_error_iff s a v k).2 h⟩

/-! ### Where the 16-bit instructions fault -/

/-- A fault ends the operation before what would follow it (60_exceptions.md R460). -/
theorem ofExcept_bind_fault {α : Type} {x : Except Fault α} {k : Fault} (f : α → Except Fault State)
    (h : x = .error k) : ofExcept (x >>= f) = .fault k := by
  rw [h]; rfl

theorem exec_push_fault {s : State} {k : Fault} (rp : PairPsw) (h : slots s (pushAddr s) = .error k) :
    exec (.push rp) s = .fault k :=
  ofExcept_bind_fault _ ((memWrite2_error_iff s _ _ k).2 h)

theorem exec_pop_fault {s : State} {k : Fault} (rp : PairPsw) (h : slots s s.sp.toNat = .error k) :
    exec (.pop rp) s = .fault k :=
  ofExcept_bind_fault _ ((memRead2_error_iff s _ k).2 h)

theorem exec_xthl_fault {s : State} {k : Fault} (h : slots s s.sp.toNat = .error k) : exec .xthl s = .fault k :=
  ofExcept_bind_fault _ ((memRead2_error_iff s _ k).2 h)

theorem exec_lhld_fault {s : State} {k : Fault} (w : Word) (h : slots s w.toNat = .error k) :
    exec (.lhld w) s = .fault k :=
  ofExcept_bind_fault _ ((memRead2_error_iff s _ k).2 h)

theorem exec_shld_fault {s : State} {k : Fault} (w : Word) (h : slots s w.toNat = .error k) :
    exec (.shld w) s = .fault k :=
  (ofExcept_fault_iff _ k).2 ((memWrite2_error_iff s _ _ k).2 h)

/-! ### The frame's part in memory (20_memory.md R60, R64; 10_state.md R42) -/

theorem RegM.writes_mem_of_ne {s : State} {d : RegM} (h : d ≠ .m) : (RegM.writes s d).mem = [] := by
  cases d with
  | reg r => rfl
  | m => exact absurd rfl h

theorem PairSp.writes_mem (p : PairSp) : (PairSp.writes p).mem = [] := by
  cases p <;> rfl

theorem PairPsw.writes_mem (p : PairPsw) : (PairPsw.writes p).mem = [] := by
  cases p <;> rfl

/-- The frame names addresses for the storing instructions alone. -/
theorem writes_mem_of_not_storesToMemory (s : State) (i : Instr) (h : storesToMemory i = false) :
    (Instr.writes s i).mem = [] := by
  cases i
  case mov d _ | mvi d _ | inr d | dcr d => exact RegM.writes_mem_of_ne (of_decide_eq_false h)
  case lxi p _ | inx p | dcx p => exact PairSp.writes_mem p
  case pop p => exact PairPsw.writes_mem p
  case sta | stax | shld | push | xthl => cases h
  all_goals rfl

theorem Only.byteAt_eq {w : Writes} {s t : State} (h : Only w s t) {a : Nat} (ha : a ∉ w.mem) :
    t.byteAt a = s.byteAt a := by
  obtain ⟨-, h, -⟩ := h
  exact h a ha

theorem Only.mem_touched_iff {w : Writes} {s t : State} (h : Only w s t) (a : Nat) :
    a ∈ t.touched ↔ a ∈ s.touched ∨ a ∈ w.mem := by
  obtain ⟨-, -, h, -⟩ := h
  exact h a

theorem Only.touched_eq {w : Writes} {s t : State} (h : Only w s t) (hw : w.mem = []) : t.touched = s.touched := by
  obtain ⟨-, -, -, -, -, -, -, -, -, -, -, -, -, -, -, h⟩ := h
  exact h hw

end Sys2Proof.Machine
end

section
/-! SUPPORT. The statements of 20_memory.md: the writers of memory, and the 16-bit accesses within and outside its range. -/

namespace Sys2Proof.Machine

/-- Settles O21: a byte outside the frame's addresses is kept, and `touched` gains exactly those addresses. -/
theorem memoryWriters : Obligations.MemoryWriters := by
  intro i s t hu h
  have hframe : Only (Instr.writes s i) s t := exec_only i s t hu h
  refine ⟨fun hi => ?_, fun a hne => ?_, fun a ha => (hframe.mem_touched_iff a).2 (.inl ha)⟩
  · have hmem := writes_mem_of_not_storesToMemory s i hi
    exact ⟨fun a => hframe.byteAt_eq (by simp [hmem]), hframe.touched_eq hmem⟩
  · have ha : a ∈ (Instr.writes s i).mem := Decidable.by_contra fun ha => hne (hframe.byteAt_eq ha)
    exact (hframe.mem_touched_iff a).2 (.inr ha)

/-- Settles O24: within range the cells are the address and the next; outside the cells fault, and with them both
accesses. -/
theorem wordAccess : Obligations.WordAccess := by
  intro s a v
  refine ⟨fun h0 h1 => ?_, fun hf ha => access2_error v (slots_fault_outside s a hf ha), ?_⟩
  · have hs := slots_inRange s a h0 h1
    obtain ⟨t, ht⟩ : ∃ t, memWrite2 s a v = .ok t := ⟨_, (memWrite2_ok_iff _ _ _ _).2 ⟨_, _, hs, rfl⟩⟩
    obtain ⟨hlo, hhi⟩ := memWrite2_byteAt hs ht
    refine ⟨(memRead2_ok_iff _ _ _).2 ⟨_, _, hs, rfl⟩, t, ht, ?_, ?_, memRead2_of_memWrite2 ht, ?_⟩
    · rw [hlo, lo_toNat]
    · rw [hhi, hi_toNat]
    · rw [← slotCells_of_slots hs]
      exact only_memWrite2 s t a v ht
  · rintro hf rfl
    exact access2_error v (slots_fault_top s hf)

/-- Settles O52: each of the five instructions faults where the cells of its access do. -/
theorem wordAccessFaults : Obligations.WordAccessFaults := by
  intro s hf
  have htop := slots_fault_top s hf
  refine ⟨fun hsp rp => ?_, fun hsp => ?_, exec_lhld_fault 0xFFFF htop, exec_shld_fault 0xFFFF htop⟩
  · have hbelow : pushAddr s < 0 := by
      unfold pushAddr
      omega
    exact exec_push_fault rp (slots_fault_outside s (pushAddr s) hf (.inl hbelow))
  · have hcells : slots s s.sp.toNat = .error (.invalidMemoryAddress (.address 65536)) := by
      rw [hsp]
      exact htop
    exact ⟨fun rp => exec_pop_fault rp hcells, exec_xthl_fault hcells⟩

/-- Settles O25: the cells within range, under `ADDR_WRAP = wrap`, and under `ADDR_WRAP = fault`. -/
theorem slotsOfAnAccess : Obligations.SlotsOfAnAccess := by
  intro s a
  refine ⟨fun h0 h1 => ?_, fun hw => ?_, fun hf x y h => ?_⟩
  · rw [slots_inRange s a h0 h1, Int.toNat_add h0 Int.one_nonneg]
    rfl
  · exact (slots_ok_iff s a _ _).2 ⟨effAddr_wrap s a hw, effAddr_wrap s (a + 1) hw⟩
  · obtain ⟨hx, hy⟩ := (slots_ok_iff s a x y).1 h
    exact ⟨(inRange_of_effAddr_ok hf hx).1, (inRange_of_effAddr_ok hf hy).2⟩

end Sys2Proof.Machine
end

section
/-! SUPPORT. The statements of 30_encoding.md: the fields of an opcode byte, the operand bytes of an instruction, and the
decoder and the encoder as inverses of each other. -/

namespace Sys2Proof

open Sys2Proof.Machine (hi lo cat)

/-! ### The fields of an opcode byte, by the three layouts of R91 -/

section
variable (x p : BitVec 2) (y z : BitVec 3) (r : BitVec 4) (a : BitVec 5)

/-! Two fields of three bits: `MOV`, `MVI`, `INR`, `DCR`, the conditions and `RST`. -/

theorem vector_append : (x ++ y ++ z).extractLsb' 3 3 = y := by
  rw [BitVec.extractLsb'_append_eq_of_le (by decide), BitVec.extractLsb'_append_eq_right]

theorem fieldX_append : fieldX (x ++ y ++ z) = x.toNat := by
  rw [fieldX, BitVec.extractLsb'_append_eq_of_le (by decide), BitVec.extractLsb'_append_eq_left]

theorem fieldY_append : fieldY (x ++ y ++ z) = y.toNat := by
  rw [fieldY, vector_append]

theorem fieldZ_append : fieldZ (x ++ y ++ z) = z.toNat := by
  rw [fieldZ, BitVec.extractLsb'_append_eq_right]

/-! Five leading bits and a register field: the ALU group. -/

theorem fieldX_append_alu : fieldX (a ++ z) = (a.extractLsb' 3 2).toNat := by
  rw [fieldX, BitVec.extractLsb'_append_eq_of_le (by decide)]

theorem fieldY_append_alu : fieldY (a ++ z) = (a.extractLsb' 0 3).toNat := by
  rw [fieldY, BitVec.extractLsb'_append_eq_of_le (by decide)]

theorem fieldZ_append_alu : fieldZ (a ++ z) = z.toNat := by
  rw [fieldZ, BitVec.extractLsb'_append_eq_right]

/-! A pair field and a suffix of four bits: `LXI`, `INX`, `DCX`, `DAD`, `PUSH`, `POP`. -/

theorem fieldX_append_pair : fieldX (x ++ p ++ r) = x.toNat := by
  rw [fieldX, BitVec.extractLsb'_append_eq_of_le (by decide), BitVec.extractLsb'_append_eq_left]

theorem fieldP_append_pair : fieldP (x ++ p ++ r) = p.toNat := by
  rw [fieldP, BitVec.extractLsb'_append_eq_of_le (by decide), BitVec.extractLsb'_append_eq_right]

theorem fieldQ_append_pair : fieldQ (x ++ p ++ r) = (r.extractLsb' 3 1).toNat := by
  rw [fieldQ, BitVec.extractLsb'_append_eq_of_add_le (by decide)]

theorem fieldZ_append_pair : fieldZ (x ++ p ++ r) = (r.extractLsb' 0 3).toNat := by
  rw [fieldZ, BitVec.extractLsb'_append_eq_of_add_le (by decide)]

end

/-- Every opcode byte is its three fields. -/
theorem opcode_fields (op : Byte) : ∃ (x : BitVec 2) (y z : BitVec 3), op = x ++ y ++ z := by
  refine ⟨op.extractLsb' 6 2, op.extractLsb' 3 3, op.extractLsb' 0 3, ?_⟩
  rw [BitVec.extractLsb'_append_extractLsb'_eq_extractLsb' (by decide),
    BitVec.extractLsb'_append_extractLsb'_eq_extractLsb' (by decide), BitVec.extractLsb'_eq_self]

theorem bits2_cases : ∀ x : BitVec 2, x = 0 ∨ x = 1 ∨ x = 2 ∨ x = 3 := by decide

theorem bits3_cases : ∀ y : BitVec 3, y = 0 ∨ y = 1 ∨ y = 2 ∨ y = 3 ∨ y = 4 ∨ y = 5 ∨ y = 6 ∨ y = 7 := by decide

/-! ### The codes of R93 and R94 and the operands they stand for -/

@[simp] theorem regOfCode_code (d : RegM) : regOfCode d.code.toNat = d := by
  cases d with
  | reg r => cases r <;> rfl
  | m => rfl

@[simp] theorem code_regOfCode : ∀ y : BitVec 3, (regOfCode y.toNat).code = y := by decide

@[simp] theorem pairSpOfCode_code (p : PairSp) : pairSpOfCode p.code.toNat = p := by
  cases p with
  | pair q => cases q <;> rfl
  | sp => rfl

@[simp] theorem pairPswOfCode_code (p : PairPsw) : pairPswOfCode p.code.toNat = p := by
  cases p with
  | pair q => cases q <;> rfl
  | psw => rfl

/-! ### Operand bytes (R97) -/

theorem cat_eq_iff {w : Word} {b1 b2 : Byte} : cat b2 b1 = w ↔ lo w = b1 ∧ hi w = b2 := by
  constructor
  · rintro rfl
    exact ⟨Machine.lo_cat b2 b1, Machine.hi_cat b2 b1⟩
  · rintro ⟨rfl, rfl⟩
    exact Machine.cat_hi_lo w

/-- The instruction with its operand assembled from other operand bytes (R97). Register, pair and vector operands stand in
the opcode byte and stay. -/
def Instr.withOperands (b1 b2 : Byte) : Instr → Instr
  | .lxi p _ => .lxi p (cat b2 b1)
  | .lda _ => .lda (cat b2 b1)
  | .sta _ => .sta (cat b2 b1)
  | .lhld _ => .lhld (cat b2 b1)
  | .shld _ => .shld (cat b2 b1)
  | .jmp _ => .jmp (cat b2 b1)
  | .jnz _ => .jnz (cat b2 b1)
  | .jz _ => .jz (cat b2 b1)
  | .jnc _ => .jnc (cat b2 b1)
  | .jc _ => .jc (cat b2 b1)
  | .jpo _ => .jpo (cat b2 b1)
  | .jpe _ => .jpe (cat b2 b1)
  | .jp _ => .jp (cat b2 b1)
  | .jm _ => .jm (cat b2 b1)
  | .call _ => .call (cat b2 b1)
  | .cnz _ => .cnz (cat b2 b1)
  | .cz _ => .cz (cat b2 b1)
  | .cnc _ => .cnc (cat b2 b1)
  | .cc _ => .cc (cat b2 b1)
  | .cpo _ => .cpo (cat b2 b1)
  | .cpe _ => .cpe (cat b2 b1)
  | .cp _ => .cp (cat b2 b1)
  | .cm _ => .cm (cat b2 b1)
  | .mvi d _ => .mvi d b1
  | .adi _ => .adi b1
  | .aci _ => .aci b1
  | .sui _ => .sui b1
  | .sbi _ => .sbi b1
  | .ani _ => .ani b1
  | .xri _ => .xri b1
  | .ori _ => .ori b1
  | .cpi _ => .cpi b1
  | .in_ _ => .in_ b1
  | .out _ => .out b1
  | i => i


section
variable (i : Instr) (b1 b2 : Byte)

@[simp] theorem length_withOperands : (i.withOperands b1 b2).length = i.length := by
  cases i <;> rfl

@[simp] theorem wf_withOperands : (i.withOperands b1 b2).wf = i.wf := by
  cases i <;> rfl

@[simp] theorem opcodeByte_withOperands : opcodeByte (i.withOperands b1 b2) = opcodeByte i := by
  cases i <;> rfl

/-- The operand bytes written are the ones read, as many as the length leaves room for. -/
@[simp] theorem operandBytes_withOperands :
    operandBytes (i.withOperands b1 b2) = [b1, b2].take (i.length - 1) := by
  cases i <;> simp [Instr.withOperands, operandBytes, Instr.length]

/-- Assembling an instruction's own operand bytes changes nothing. -/
theorem withOperands_eq_self (h : operandBytes i = [b1, b2].take (i.length - 1)) : i.withOperands b1 b2 = i := by
  cases i <;> simp_all [Instr.withOperands, operandBytes, Instr.length, cat_eq_iff]

end

/-- An instruction is encoded in one to three bytes (R90), as many as its length says. -/
theorem encodeLength_all (i : Instr) : Laws.EncodeLength.Statement i := by
  cases i <;> exact ⟨rfl, Nat.le_of_ble_eq_true rfl, Nat.le_of_ble_eq_true rfl⟩

theorem operandBytes_cases (i : Instr) :
    (i.length = 1 ∧ operandBytes i = []) ∨ (∃ b1, i.length = 2 ∧ operandBytes i = [b1])
      ∨ ∃ b1 b2, i.length = 3 ∧ operandBytes i = [b1, b2] := by
  obtain ⟨hbytes, -, hle⟩ := encodeLength_all i
  rw [encode, List.length_cons] at hbytes
  match operandBytes i, hbytes with
  | [], hlen => exact .inl ⟨hlen.symm, rfl⟩
  | [b1], hlen => exact .inr (.inl ⟨b1, hlen.symm, rfl⟩)
  | [b1, b2], hlen => exact .inr (.inr ⟨b1, b2, hlen.symm, rfl⟩)
  | _ :: _ :: _ :: _, hlen =>
    simp only [List.length_cons] at hlen
    omega

/-! ### The decoder inverts the opcode byte (R98) -/

theorem decodeInstr_undefined (op b1 b2 : Byte) (h : (Instr.undefined op).wf = true) :
    decodeInstr op b1 b2 = .undefined op := by
  simp only [Instr.wf, undefinedBytes, List.contains_iff_mem, List.mem_cons, List.not_mem_nil, or_false] at h
  rcases h with rfl | rfl | rfl | rfl | rfl | rfl | rfl | rfl | rfl | rfl <;> rfl

theorem wf_mov_iff (d s : RegM) : (Instr.mov d s).wf = true ↔ ¬(d = .m ∧ s = .m) := by
  simp [Instr.wf, imp_iff_not_or]

/-- First bytes `01dddsss` are `MOV`, but for the one whose fields are both `M` (R91). -/
theorem decodeInstr_x1 (y z : BitVec 3) (b1 b2 : Byte) :
    decodeInstr (0b01#2 ++ y ++ z) b1 b2
      = if regOfCode y.toNat = .m ∧ regOfCode z.toNat = .m then .hlt
        else .mov (regOfCode y.toNat) (regOfCode z.toNat) := by
  have hx : decodeInstr (0b01#2 ++ y ++ z) b1 b2 = decodeX1 (0b01#2 ++ y ++ z) := by
    simp [decodeInstr, fieldX_append]
  rw [hx, decodeX1, fieldY_append, fieldZ_append]
  split <;> simp_all

/-- The opcode byte of a well-formed instruction decodes to that instruction, with the operand read from the bytes after
it: a field gives back the operand whose code it holds, and the other opcode bytes are single values. -/
theorem decodeInstr_opcodeByte (i : Instr) (b1 b2 : Byte) (h : i.wf = true) :
    decodeInstr (opcodeByte i) b1 b2 = i.withOperands b1 b2 := by
  cases i
  case undefined op => exact decodeInstr_undefined op b1 b2 h
  case mov d s => simp [opcodeByte, decodeInstr_x1, (wf_mov_iff d s).1 h, Instr.withOperands]
  case mvi d _ | inr d | dcr d =>
    simp [opcodeByte, decodeInstr, decodeX0, fieldX_append, fieldY_append, fieldZ_append, Instr.withOperands]
  case add s | adc s | sub s | sbb s | ana s | xra s | ora s | cmp s =>
    simp [opcodeByte, decodeInstr, decodeX2, fieldX_append_alu, fieldY_append_alu, fieldZ_append_alu,
      Instr.withOperands]
  case lxi p _ | inx p | dcx p | dad p =>
    simp [opcodeByte, decodeInstr, decodeX0, fieldX_append_pair, fieldP_append_pair, fieldQ_append_pair,
      fieldZ_append_pair, Instr.withOperands]
  case push p | pop p =>
    simp [opcodeByte, decodeInstr, decodeX3, fieldX_append_pair, fieldP_append_pair, fieldQ_append_pair,
      fieldZ_append_pair, Instr.withOperands]
  case rst n => simp [opcodeByte, decodeInstr, decodeX3, fieldX_append, fieldZ_append, vector_append, Instr.withOperands]
  case ldax p | stax p => cases p <;> rfl
  all_goals
    simp only [opcodeByte, Instr.withOperands]
    rfl

theorem opLength_opcodeByte (i : Instr) (h : i.wf = true) : opLength (opcodeByte i) = i.length := by
  rw [opLength, decodeInstr_opcodeByte i 0 0 h, length_withOperands]

/-! ### The opcode byte inverts the decoder (R98) -/

/-- `op` is the opcode byte of the instruction `i` of the table. -/
def EncodesTo (i : Instr) (op : Byte) : Prop := i.wf = true ∧ opcodeByte i = op

/-- First bytes `00......`: 64 rows of mixed layouts, each evaluated. -/
theorem encodesTo_x0 : ∀ y z : BitVec 3, EncodesTo (decodeInstr (0b00#2 ++ y ++ z) 0 0) (0b00#2 ++ y ++ z) := by
  unfold EncodesTo
  decide

/-- First bytes `01......`: `MOV`, and `HLT` for `MOV M,M`. -/
theorem encodesTo_x1 (y z : BitVec 3) : EncodesTo (decodeInstr (0b01#2 ++ y ++ z) 0 0) (0b01#2 ++ y ++ z) := by
  rw [decodeInstr_x1]
  split
  · next hm =>
    obtain ⟨hy, hz⟩ := hm
    rw [← code_regOfCode y, ← code_regOfCode z, hy, hz]
    exact ⟨rfl, rfl⟩
  · next hm => exact ⟨(wf_mov_iff _ _).2 hm, by simp [opcodeByte]⟩

/-- First bytes `10......`: an operation of the ALU group for each `y`, on the register or `M` of `z`. -/
theorem encodesTo_x2 (y z : BitVec 3) : EncodesTo (decodeInstr (0b10#2 ++ y ++ z) 0 0) (0b10#2 ++ y ++ z) := by
  have hx : decodeInstr (0b10#2 ++ y ++ z) 0 0 = decodeX2 (0b10#2 ++ y ++ z) := by
    simp [decodeInstr, fieldX_append]
  rw [hx, decodeX2, fieldY_append, fieldZ_append]
  rcases bits3_cases y with rfl | rfl | rfl | rfl | rfl | rfl | rfl | rfl <;>
    simp [EncodesTo, Instr.wf, opcodeByte]

/-- First bytes `11......`: 64 rows of mixed layouts, each evaluated. -/
theorem encodesTo_x3 : ∀ y z : BitVec 3, EncodesTo (decodeInstr (0b11#2 ++ y ++ z) 0 0) (0b11#2 ++ y ++ z) := by
  unfold EncodesTo
  decide

/-- The table is total: every first byte is the opcode byte of the instruction it decodes to. -/
theorem encodesTo_decodeInstr (op : Byte) : EncodesTo (decodeInstr op 0 0) op := by
  obtain ⟨x, y, z, rfl⟩ := opcode_fields op
  rcases bits2_cases x with rfl | rfl | rfl | rfl
  · exact encodesTo_x0 y z
  · exact encodesTo_x1 y z
  · exact encodesTo_x2 y z
  · exact encodesTo_x3 y z

/-- The operand bytes of a first byte's instruction are the only thing that depends on the bytes after it. -/
theorem decodeInstr_eq_withOperands (op b1 b2 : Byte) :
    decodeInstr op b1 b2 = (decodeInstr op 0 0).withOperands b1 b2 := by
  obtain ⟨hwf, hop⟩ := encodesTo_decodeInstr op
  rw [← decodeInstr_opcodeByte _ b1 b2 hwf, hop]

/-! ### Byte strings -/

theorem decode_length1 {op : Byte} {rest : List Byte} (h : opLength op = 1) :
    decode (op :: rest) = .ok (decodeInstr op 0 0, rest) := by
  simp [decode, h]

theorem decode_length2 {op b1 : Byte} {rest : List Byte} (h : opLength op = 2) :
    decode (op :: b1 :: rest) = .ok (decodeInstr op b1 0, rest) := by
  simp [decode, h]

theorem decode_length3 {op b1 b2 : Byte} {rest : List Byte} (h : opLength op = 3) :
    decode (op :: b1 :: b2 :: rest) = .ok (decodeInstr op b1 b2, rest) := by
  simp [decode, h]

/-! ### The statements -/

/-- Settles O1, by the number of operand bytes: the first byte gives the length, and the operand bytes give back the
operand. -/
theorem decodeEncodeRoundTrip : Obligations.DecodeEncodeRoundTrip := by
  intro i rest hwf
  have hlen := opLength_opcodeByte i hwf
  have hself (b1 b2 : Byte) (h : operandBytes i = [b1, b2].take (i.length - 1)) :
      decodeInstr (opcodeByte i) b1 b2 = i := by
    rw [decodeInstr_opcodeByte i b1 b2 hwf, withOperands_eq_self i b1 b2 h]
  rcases operandBytes_cases i with ⟨hl, hb⟩ | ⟨b1, hl, hb⟩ | ⟨b1, b2, hl, hb⟩
  · have hi := hself 0 0 (by rw [hb, hl]; rfl)
    rw [encode, hb, List.cons_append, List.nil_append, decode_length1 (hlen.trans hl), hi]
  · have hi := hself b1 0 (by rw [hb, hl]; rfl)
    rw [encode, hb, List.cons_append, List.singleton_append, decode_length2 (hlen.trans hl), hi]
  · have hi := hself b1 b2 (by rw [hb, hl]; rfl)
    rw [encode, hb, List.cons_append, List.cons_append, List.singleton_append, decode_length3 (hlen.trans hl), hi]

/-- Settles O2: the bytes after the first one change the operand alone, and the operand bytes written are these. -/
theorem encodeDecodeRoundTrip : Obligations.EncodeDecodeRoundTrip := by
  intro op b1 b2
  obtain ⟨hwf, hop⟩ := encodesTo_decodeInstr op
  obtain ⟨-, hpos, -⟩ := encodeLength_all (decodeInstr op 0 0)
  have hlen : opLength op = (decodeInstr op 0 0).length - 1 + 1 := (Nat.sub_add_cancel hpos).symm
  rw [decodeInstr_eq_withOperands op b1 b2]
  refine ⟨by rw [wf_withOperands, hwf], length_withOperands _ b1 b2, ?_⟩
  rw [encode, opcodeByte_withOperands, operandBytes_withOperands, hop, hlen, List.take_succ_cons]

/-- Settles O3: each word is evaluated. -/
theorem tableWordsDecode : Obligations.TableWordsDecode := by
  unfold Obligations.TableWordsDecode
  decide

end Sys2Proof
end

section
/-! SUPPORT. Texts and tables that the assembler reads: the operand texts of the Opcode Table read back, the rows of the
table found by their words, and the length that a row gives each of its instructions. The facts that the statements of
35_assembler.md are assembled from. -/

namespace Sys2Proof.Machine

/-- What follows a step that succeeds, in the validator and in either pass. -/
theorem except_bind_ok_iff {ε α β : Type} (x : Except ε α) (f : α → Except ε β) (b : β) :
    x >>= f = .ok b ↔ ∃ a, x = .ok a ∧ f a = .ok b := by
  cases x <;> simp [bind, Except.bind]

theorem except_bind_ok {ε α β : Type} (a : α) (f : α → Except ε β) : (.ok a : Except ε α) >>= f = f a := rfl

theorem except_pure_ok_iff {ε α : Type} (a b : α) : (pure a : Except ε α) = .ok b ↔ a = b := by
  simp [pure, Except.pure]

/-! ### Operand strings (35_assembler.md R121, R132) -/

/-- A text that stands as one operand: no separator in it, and no blanks around it. -/
def IsToken (t : Text) : Prop := t.contains ',' = false ∧ trim t = t

theorem isToken_of_chars {t : Text} (h : ∀ c ∈ t, isBlank c = false ∧ c ≠ ',') : IsToken t := by
  refine ⟨?_, trim_eq_self t fun c hc => (h c hc).1⟩
  rw [Bool.eq_false_iff]
  intro hq
  exact (h ',' (List.contains_iff_mem.1 hq)).2 rfl

theorem isToken_text16 (w : Word) : IsToken (text16 w) := by
  obtain ⟨-, hsep, htrim⟩ := text16_token w
  exact ⟨hsep, htrim⟩

theorem isToken_text8 (v : Byte) : IsToken (text8 v) := by
  have hdigit (n : BitVec 4) : isBlank (hexChar n) = false ∧ hexChar n ≠ ',' := (hexChar_spec n).2
  refine isToken_of_chars fun c hc => ?_
  simp only [text8, List.mem_cons, List.not_mem_nil, or_false] at hc
  rcases hc with rfl | rfl | rfl
  · exact hdigit _
  · exact hdigit _
  · decide

theorem isToken_regM (o : RegM) : IsToken (RegM.text o) := by
  cases o with
  | reg r => cases r <;> exact ⟨rfl, rfl⟩
  | m => exact ⟨rfl, rfl⟩

theorem isToken_pair (p : Pair) : IsToken (Pair.text p) := by
  cases p <;> exact ⟨rfl, rfl⟩

theorem isToken_pairSp (p : PairSp) : IsToken (PairSp.text p) := by
  cases p with
  | pair q => exact isToken_pair q
  | sp => exact ⟨rfl, rfl⟩

theorem isToken_pairPsw (p : PairPsw) : IsToken (PairPsw.text p) := by
  cases p with
  | pair q => exact isToken_pair q
  | psw => exact ⟨rfl, rfl⟩

theorem isToken_pairBD (p : PairBD) : IsToken (PairBD.text p) := by
  cases p <;> exact ⟨rfl, rfl⟩

theorem splitOn_of_not_mem {c : Char} {t : Text} (h : c ∉ t) : splitOn c t = [t] := by
  induction t with
  | nil => rfl
  | cons x rest ih =>
    obtain ⟨hx, hrest⟩ : c ≠ x ∧ c ∉ rest := by simpa using h
    simp [splitOn, Ne.symm hx, ih hrest]

theorem splitOn_append {c : Char} {x : Text} (h : c ∉ x) (y : Text) :
    splitOn c (x ++ c :: y) = x :: splitOn c y := by
  induction x with
  | nil => simp [splitOn]
  | cons a rest ih =>
    obtain ⟨ha, hrest⟩ : c ≠ a ∧ c ∉ rest := by simpa using h
    simp [splitOn, Ne.symm ha, ih hrest]

theorem IsToken.sep_not_mem {t : Text} (h : IsToken t) : ',' ∉ t := by
  simpa using h.1

theorem arity1_token {t : Text} (h : IsToken t) : arity1 t = .ok t := by
  obtain ⟨hsep, htrim⟩ := h
  rw [arity1, hsep, htrim]
  rfl

theorem arity2_tokens {x y : Text} (hx : IsToken x) (hy : IsToken y) : arity2 (x ++ [','] ++ y) = .ok (x, y) := by
  have hsplit : splitOn ',' (x ++ [','] ++ y) = [x, y] := by
    rw [List.append_assoc, List.singleton_append, splitOn_append hx.sep_not_mem, splitOn_of_not_mem hy.sep_not_mem]
  rw [arity2, hsplit]
  simp only [hx.2, hy.2]

/-! ### Each operand position reads its own text (35_assembler.md R131, R133, R134) -/

theorem checkReg_text (pos : Nat) (o : RegM) : checkReg pos (RegM.text o) = .ok o := by
  cases o with
  | reg r => cases r <;> rfl
  | m => rfl

theorem checkPairSp_text (pos : Nat) (p : PairSp) : checkPairSp pos (PairSp.text p) = .ok p := by
  cases p with
  | pair q => cases q <;> rfl
  | sp => rfl

theorem checkPairPsw_text (pos : Nat) (p : PairPsw) : checkPairPsw pos (PairPsw.text p) = .ok p := by
  cases p with
  | pair q => cases q <;> rfl
  | psw => rfl

theorem checkPairBD_text (pos : Nat) (p : PairBD) : checkPairBD pos (PairBD.text p) = .ok p := by
  cases p <;> rfl

theorem literal8_text8 (v : Byte) : literal8 (text8 v) = some v := by
  simp only [text8, literal8, (hexChar_spec _).1, Option.some.injEq]
  exact (BitVec.extractLsb'_append_extractLsb'_eq_extractLsb' (by decide)).trans BitVec.extractLsb'_eq_self

theorem checkImm_text (pos : Nat) (v : Byte) : checkImm pos (text8 v) = .ok v := by
  rw [checkImm, literal8_text8]
  simp [text8]

theorem checkPort_text (pos : Nat) (v : Byte) : checkPort pos (text8 v) = .ok v := by
  rw [checkPort, literal8_text8]
  simp [text8]

/-- The character of a vector number, and the number it reads back as (35_assembler.md R131). -/
theorem vectorChar_spec : ∀ n : BitVec 3, IsToken [Char.ofNat (48 + n.toNat)]
    ∧ ('0' ≤ Char.ofNat (48 + n.toNat) ∧ Char.ofNat (48 + n.toNat) ≤ '7')
    ∧ BitVec.ofNat 3 ((Char.ofNat (48 + n.toNat)).toNat - 48) = n := by
  unfold IsToken
  decide

theorem checkVector_text (pos : Nat) (n : BitVec 3) : checkVector pos [Char.ofNat (48 + n.toNat)] = .ok n := by
  obtain ⟨-, hrange, hvalue⟩ := vectorChar_spec n
  simp only [checkVector, hrange, hvalue, and_self, if_true]

/-! ### Each form reads its operand text (35_assembler.md R132 to R136) -/

/-- A checked line that stands for `i` against every Label Table: `i` itself, or `i` with its 16-bit operand as a
literal. -/
inductive Checked.StandsFor : Checked → Instr → Prop
  | plain (i : Instr) : StandsFor (.plain i) i
  | withAddr (mk : Word → Instr) (pos : Nat) (w : Word) : StandsFor (.withAddr mk pos (.literal w (text16 w))) (mk w)

/-- A form turns an operand string into a checked line that stands for `i`. -/
def Form.Reads (cfg : Params) (form : Form) (ops : Text) (i : Instr) : Prop :=
  ∃ c, checkForm cfg form ops = .ok c ∧ c.StandsFor i

theorem resolve_of_standsFor {c : Checked} {i : Instr} (h : c.StandsFor i) (cfg : Params)
    (labels : List (Text × Nat)) : resolve cfg labels c = .ok i := by
  cases h <;> rfl

section
variable (cfg : Params)

theorem reads_none0 (i : Instr) : Form.Reads cfg (.none0 i) [] i :=
  ⟨.plain i, rfl, .plain i⟩

theorem reads_mov {d s : RegM} (h : ¬(d = .m ∧ s = .m)) :
    Form.Reads cfg .mov (RegM.text d ++ [','] ++ RegM.text s) (.mov d s) := by
  refine ⟨_, ?_, .plain _⟩
  simp only [checkForm, arity2_tokens (isToken_regM d) (isToken_regM s), checkReg_text, except_bind_ok, h, if_false]
  rfl

theorem reads_mvi (d : RegM) (v : Byte) :
    Form.Reads cfg .mvi (RegM.text d ++ [','] ++ text8 v) (.mvi d v) := by
  refine ⟨_, ?_, .plain _⟩
  simp only [checkForm, arity2_tokens (isToken_regM d) (isToken_text8 v), checkReg_text, checkImm_text, except_bind_ok]
  rfl

theorem reads_lxi (p : PairSp) {w : Word} (h : inMap cfg w.toNat = true) :
    Form.Reads cfg .lxi (PairSp.text p ++ [','] ++ text16 w) (.lxi p w) := by
  refine ⟨_, ?_, .withAddr (.lxi p) 2 w⟩
  simp only [checkForm, arity2_tokens (isToken_pairSp p) (isToken_text16 w), checkPairSp_text,
    checkAddr_literal cfg 2 w h, except_bind_ok]
  rfl

theorem reads_regM (mk : RegM → Instr) (o : RegM) : Form.Reads cfg (.regM mk) (RegM.text o) (mk o) := by
  refine ⟨_, ?_, .plain _⟩
  simp only [checkForm, arity1_token (isToken_regM o), checkReg_text, except_bind_ok]
  rfl

theorem reads_pairSp (mk : PairSp → Instr) (p : PairSp) : Form.Reads cfg (.pairSp mk) (PairSp.text p) (mk p) := by
  refine ⟨_, ?_, .plain _⟩
  simp only [checkForm, arity1_token (isToken_pairSp p), checkPairSp_text, except_bind_ok]
  rfl

theorem reads_pairPsw (mk : PairPsw → Instr) (p : PairPsw) :
    Form.Reads cfg (.pairPsw mk) (PairPsw.text p) (mk p) := by
  refine ⟨_, ?_, .plain _⟩
  simp only [checkForm, arity1_token (isToken_pairPsw p), checkPairPsw_text, except_bind_ok]
  rfl

theorem reads_pairBD (mk : PairBD → Instr) (p : PairBD) : Form.Reads cfg (.pairBD mk) (PairBD.text p) (mk p) := by
  refine ⟨_, ?_, .plain _⟩
  simp only [checkForm, arity1_token (isToken_pairBD p), checkPairBD_text, except_bind_ok]
  rfl

theorem reads_imm (mk : Byte → Instr) (v : Byte) : Form.Reads cfg (.imm mk) (text8 v) (mk v) := by
  refine ⟨_, ?_, .plain _⟩
  simp only [checkForm, arity1_token (isToken_text8 v), checkImm_text, except_bind_ok]
  rfl

theorem reads_port (mk : Byte → Instr) (v : Byte) : Form.Reads cfg (.port mk) (text8 v) (mk v) := by
  refine ⟨_, ?_, .plain _⟩
  simp only [checkForm, arity1_token (isToken_text8 v), checkPort_text, except_bind_ok]
  rfl

theorem reads_addr (mk : Word → Instr) {w : Word} (h : inMap cfg w.toNat = true) :
    Form.Reads cfg (.addr mk) (text16 w) (mk w) :=
  have ht := isToken_text16 w
  ⟨_, checkForm_addr cfg mk _ _ ht.1 ht.2 (checkAddr_literal cfg 1 w h), .withAddr mk 1 w⟩

theorem reads_vector (n : BitVec 3) : Form.Reads cfg .vector [Char.ofNat (48 + n.toNat)] (.rst n) := by
  refine ⟨_, ?_, .plain _⟩
  simp only [checkForm, arity1_token (vectorChar_spec n).1, checkVector_text, except_bind_ok]
  rfl

/-! ### The rows of the table (30_encoding.md R98, 35_assembler.md R122) -/

/-- Every setting has a part of the table that has the interrupt mnemonics too. -/
theorem forms_sublist : (forms cfg).Sublist (forms { Params.default with interruptOps := .nop }) := by
  cases h : cfg.interruptOps with
  | refuse => simp only [forms, h]; exact List.Sublist.append_left (List.nil_sublist _) _
  | nop => simp only [forms, h]; exact List.Sublist.refl _

/-- No word heads two rows. -/
theorem forms_words_nodup : ((forms cfg).map Prod.fst).Nodup := by
  have hfull : ((forms { Params.default with interruptOps := .nop }).map Prod.fst).Nodup := by decide
  exact hfull.sublist ((forms_sublist cfg).map Prod.fst)

/-- The lookup finds every row by its word. -/
theorem lookupForm_of_mem {word : Text} {form : Form} (h : (word, form) ∈ forms cfg) :
    lookupForm cfg word = some form := by
  obtain ⟨before, after, hsplit⟩ := List.append_of_mem h
  have hnodup := forms_words_nodup cfg
  rw [hsplit, List.map_append, List.map_cons, List.nodup_append] at hnodup
  obtain ⟨-, -, hdisjoint⟩ := hnodup
  refine lookupForm_of_find cfg word (word, form)
    (List.find?_eq_some_iff_append.2 ⟨by simp, before, after, hsplit, ?_⟩)
  intro row hrow
  simpa using hdisjoint row.1 (List.mem_map_of_mem hrow) word (by simp)

/-- What the lookup finds is a row of the table, or the reset instruction. -/
theorem mem_of_lookupForm {word : Text} {form : Form} (h : lookupForm cfg word = some form) :
    (∃ row ∈ forms cfg, row.2 = form) ∨ form = .reset := by
  unfold lookupForm at h
  split at h
  · next row hrow =>
    cases h
    exact .inl ⟨row, List.mem_of_find?_eq_some hrow, rfl⟩
  · split at h <;> cases h
    exact .inr rfl

/-- The table lists its rows in the order of `Instr`: every instruction has a row under its mnemonic, whose form reads
its operand text. -/
theorem form_reads_operandText (i : Instr) (hwf : i.wf = true) (hu : isUndefined i = false)
    (hint : i ∈ [Instr.ei, Instr.di, Instr.rim, Instr.sim] → cfg.interruptOps = .nop)
    (hmap : ∀ w : Word, inMap cfg w.toNat = true) :
    ∃ form, (forms cfg)[i.ctorIdx]? = some (Instr.mnemonic i, form) ∧ form.Reads cfg (Instr.operandText i) i := by
  cases i
  case undefined op => cases hu
  case mov d s => exact ⟨_, rfl, reads_mov cfg ((wf_mov_iff d s).1 hwf)⟩
  case mvi d v => exact ⟨_, rfl, reads_mvi cfg d v⟩
  case lxi p w => exact ⟨_, rfl, reads_lxi cfg p (hmap w)⟩
  case rst n => exact ⟨_, rfl, reads_vector cfg n⟩
  case ldax p | stax p => exact ⟨_, rfl, reads_pairBD cfg _ p⟩
  case inx p | dcx p | dad p => exact ⟨_, rfl, reads_pairSp cfg _ p⟩
  case push p | pop p => exact ⟨_, rfl, reads_pairPsw cfg _ p⟩
  case in_ v | out v => exact ⟨_, rfl, reads_port cfg _ v⟩
  case adi v | aci v | sui v | sbi v | ani v | xri v | ori v | cpi v => exact ⟨_, rfl, reads_imm cfg _ v⟩
  case add o | adc o | sub o | sbb o | inr o | dcr o | ana o | xra o | ora o | cmp o =>
    exact ⟨_, rfl, reads_regM cfg _ o⟩
  case lda w | sta w | lhld w | shld w | jmp w | jnz w | jz w | jnc w | jc w | jpo w | jpe w | jp w | jm w | call w
      | cnz w | cz w | cnc w | cc w | cpo w | cpe w | cp w | cm w => exact ⟨_, rfl, reads_addr cfg _ (hmap w)⟩
  case ei | di | rim | sim =>
    rw [forms, hint (by simp)]
    exact ⟨_, rfl, reads_none0 cfg _⟩
  all_goals exact ⟨_, rfl, reads_none0 cfg _⟩

/-- The Branch rows with an address operand come first. -/
theorem addr_of_mem_jumpsAndCalls : ∀ row ∈ branchForms.take 18, ∃ mk, row.2 = .addr mk := by
  simp only [branchForms, List.take_succ_cons, List.take_zero, List.forall_mem_cons, List.not_mem_nil, false_imp_iff,
    implies_true, and_true, Form.addr.injEq, exists_eq']

theorem mem_forms_of_mem_branchForms {row : Text × Form} (h : row ∈ branchForms) : row ∈ forms cfg := by
  simp only [forms, List.mem_append, h, true_or, or_true]

end

/-! ### The length that a row gives (35_assembler.md R150) -/

/-- A checked line whose instruction has `n` bytes, whatever its 16-bit operand. -/
def Checked.HasLength (n : Nat) : Checked → Prop
  | .plain i => i.length = n
  | .withAddr mk _ _ => ∀ w, (mk w).length = n
  | .reset => n = 1

/-- Every instruction that a form makes has the form's length. -/
def Form.Uniform (form : Form) : Prop :=
  match form with
  | .none0 i => i.length = form.length
  | .mov => ∀ d s, (Instr.mov d s).length = form.length
  | .mvi => ∀ d v, (Instr.mvi d v).length = form.length
  | .lxi => ∀ p w, (Instr.lxi p w).length = form.length
  | .regM mk => ∀ o, (mk o).length = form.length
  | .pairSp mk => ∀ p, (mk p).length = form.length
  | .pairPsw mk => ∀ p, (mk p).length = form.length
  | .pairBD mk => ∀ p, (mk p).length = form.length
  | .imm mk => ∀ v, (mk v).length = form.length
  | .addr mk => ∀ w, (mk w).length = form.length
  | .port mk => ∀ v, (mk v).length = form.length
  | .vector => ∀ n, (Instr.rst n).length = form.length
  | .reset => ∀ op, (Instr.undefined op).length = form.length

theorem uniform_of_mem_forms {cfg : Params} {row : Text × Form} (h : row ∈ forms cfg) : row.2.Uniform := by
  have hall : ∀ row ∈ forms { Params.default with interruptOps := .nop }, row.2.Uniform := by
    delta Form.Uniform
    simp only [forms, dataForms, arithmeticForms, logicalForms, branchForms, stackForms, controlForms, interruptForms,
      List.forall_mem_append, List.forall_mem_cons, List.not_mem_nil, false_imp_iff, implies_true, and_true]
    and_intros <;> intros <;> rfl
  exact hall row ((forms_sublist cfg).subset h)

theorem checkForm_hasLength {cfg : Params} {form : Form} {ops : Text} {c : Checked} (hform : form.Uniform)
    (h : checkForm cfg form ops = .ok c) : c.HasLength form.length := by
  cases form <;> simp only [checkForm, except_bind_ok_iff, except_pure_ok_iff] at h
  case none0 i =>
    obtain ⟨-, -, rfl⟩ := h
    exact hform
  case mov =>
    obtain ⟨_, -, d, -, s, -, h⟩ := h
    split at h <;> cases h
    exact hform d s
  case mvi =>
    obtain ⟨-, -, d, -, v, -, rfl⟩ := h
    exact hform d v
  case lxi =>
    obtain ⟨-, -, p, -, a, -, rfl⟩ := h
    exact hform p
  case addr mk =>
    obtain ⟨-, -, a, -, rfl⟩ := h
    exact hform
  case reset =>
    obtain ⟨-, -, rfl⟩ := h
    rfl
  case regM mk | pairSp mk | pairPsw mk | pairBD mk | imm mk | port mk | vector =>
    obtain ⟨-, -, x, -, rfl⟩ := h
    exact hform x

theorem resolve_hasLength {cfg : Params} {labels : List (Text × Nat)} {c : Checked} {i : Instr} {n : Nat}
    (hc : c.HasLength n) (h : resolve cfg labels c = .ok i) : i.length = n := by
  cases c with
  | plain j =>
    cases h
    exact hc
  | withAddr mk pos a =>
    simp only [resolve, except_bind_ok_iff, except_pure_ok_iff] at h
    obtain ⟨w, -, rfl⟩ := h
    exact hc w
  | reset =>
    simp only [resolve, resetEncoding] at h
    split at h <;> cases h
    exact hc.symm

/-- Validation needs a row, and gives an instruction of that row's length: the two passes agree on it. -/
theorem validate_length {cfg : Params} {word ops : Text} {labels : List (Text × Nat)} {i : Instr} {form : Form}
    (hform : lookupForm cfg word = some form) (h : validate cfg word ops labels = .ok i) : i.length = form.length := by
  obtain ⟨c, hc, hi⟩ := (except_bind_ok_iff _ _ _).1 h
  simp only [checkLine, hform] at hc
  have huniform : form.Uniform := by
    rcases mem_of_lookupForm cfg hform with ⟨row, hrow, rfl⟩ | rfl
    · exact uniform_of_mem_forms hrow
    · exact fun _ => rfl
  exact resolve_hasLength (checkForm_hasLength huniform hc) hi

end Sys2Proof.Machine
end

section
/-! SUPPORT. The two passes of the assembler in step: what Pass 1 accepts of a line, Pass 2 places within memory. -/

namespace Sys2Proof.Machine

/-! ### Placement (35_assembler.md R152, R155) -/

theorem checkPlacement_ok_iff (a n : Nat) : checkPlacement a n = .ok () ↔ a + n ≤ 65536 := by
  unfold checkPlacement failAt
  split
  · next h => simp [h]
  · next h => simpa using h

theorem placeBytes_wf {mem : List Host.Cell} {a : Nat} {vs : List Byte} (ha : a + vs.length ≤ 65536)
    (hmem : Memory.wf mem = true) : Memory.wf (placeBytes mem a vs) = true := by
  induction vs generalizing mem a with
  | nil => exact hmem
  | cons v rest ih =>
    rw [List.length_cons] at ha
    exact ih (by omega) (cellWrite_wf resetMem v 65536 a mem (by omega) hmem)

/-- The bytes of a `DB` line are as many as its tokens (35_assembler.md R141). -/
theorem dbBytes_length {pos : Nat} {tokens : List Text} {vs : List Byte} (h : dbBytes pos tokens = .ok vs) :
    vs.length = tokens.length := by
  induction tokens generalizing pos vs with
  | nil =>
    cases h
    rfl
  | cons token rest ih =>
    simp only [dbBytes, except_bind_ok_iff, except_pure_ok_iff] at h
    obtain ⟨v, -, ws, hws, rfl⟩ := h
    rw [List.length_cons, List.length_cons, ih hws]

/-- Pass 2 validates the operand of `ORG` that Pass 1 has read (35_assembler.md R140, R150). -/
theorem orgValue_of_orgOperand {cfg : Params} {ops : Text} {a : Nat} (h : orgOperand cfg ops = .ok a) :
    orgValue ops = .ok a := by
  obtain ⟨b, hb, h⟩ := (except_bind_ok_iff _ _ _).1 h
  split at h <;> cases h
  exact hb

/-! ### What each pass does with a statement -/

theorem passOneStmt_org_ok {cfg : Params} {k k' : Counters} {ops : Text} (h : passOneStmt cfg k (.org ops) = .ok k') :
    ∃ a, orgValue ops = .ok a ∧ k' = { k with lc := a, orgSeen := true } := by
  obtain ⟨a, ha, h⟩ := (except_bind_ok_iff _ _ _).1 h
  exact ⟨a, ha, ((except_pure_ok_iff _ _).1 h).symm⟩

theorem passOneStmt_db_ok {cfg : Params} {k k' : Counters} {ops : Text} (h : passOneStmt cfg k (.db ops) = .ok k') :
    dbAddr k + (dbTokens ops).length ≤ 65536 ∧ k' = dbAdvance k (dbTokens ops).length := by
  obtain ⟨u, hplace, h⟩ := (except_bind_ok_iff _ _ _).1 h
  exact ⟨(checkPlacement_ok_iff _ _).1 hplace, ((except_pure_ok_iff _ _).1 h).symm⟩

theorem passOneStmt_instr_ok {cfg : Params} {k k' : Counters} {word ops : Text}
    (h : passOneStmt cfg k (.instr word ops) = .ok k') :
    ∃ form, lookupForm cfg word = some form ∧ k.lc + form.length ≤ 65536
      ∧ k' = { k with lc := k.lc + form.length } := by
  simp only [passOneStmt] at h
  split at h
  · cases h
  · next form hform =>
    obtain ⟨u, hplace, h⟩ := (except_bind_ok_iff _ _ _).1 h
    exact ⟨form, hform, (checkPlacement_ok_iff _ _).1 hplace, ((except_pure_ok_iff _ _).1 h).symm⟩

/-- What Pass 2 has placed so far is in canonical form: memory and the starts of instructions (10_state.md R32, R41). -/
def PassTwo.Wf (p : PassTwo) : Prop := Memory.wf p.mem = true ∧ addrsWf p.istart = true

/-- On a line that Pass 1 accepts, Pass 2 moves its counters as Pass 1 does and places within memory. -/
theorem passTwoLine_inStep {cfg : Params} {labels : List (Text × Nat)} {p q : PassTwo} {line : SourceLine}
    {k : Counters} (hone : passOneStmt cfg p.k line.stmt = .ok k) (htwo : passTwoLine cfg labels p line = .ok q)
    (hp : p.Wf) : q.k = k ∧ q.Wf := by
  obtain ⟨hmem, histart⟩ := hp
  cases hstmt : line.stmt <;> simp only [passTwoLine, hstmt] at hone htwo
  case blank =>
    cases hone
    cases htwo
    exact ⟨rfl, hmem, histart⟩
  case org ops =>
    obtain ⟨a, ha, rfl⟩ := passOneStmt_org_ok hone
    obtain ⟨b, hb, h⟩ := (except_bind_ok_iff _ _ _).1 htwo
    cases h
    cases ha.symm.trans (orgValue_of_orgOperand hb)
    exact ⟨rfl, hmem, histart⟩
  case db ops =>
    obtain ⟨hplace, rfl⟩ := passOneStmt_db_ok hone
    obtain ⟨vs, hvs, h⟩ := (except_bind_ok_iff _ _ _).1 htwo
    cases h
    rw [← dbBytes_length hvs] at hplace ⊢
    exact ⟨rfl, placeBytes_wf hplace hmem, histart⟩
  case instr word ops =>
    obtain ⟨form, hform, hplace, rfl⟩ := passOneStmt_instr_ok hone
    obtain ⟨i, hi, h⟩ := (except_bind_ok_iff _ _ _).1 htwo
    cases h
    obtain ⟨hbytes, hpos, -⟩ := encodeLength_all i
    rw [← validate_length hform hi] at hplace ⊢
    exact ⟨rfl, placeBytes_wf (by rwa [hbytes]) hmem, addrInsert_wf p.istart p.k.lc (by omega) histart⟩

/-- Over a program that Pass 1 accepts, Pass 2 keeps what it places in canonical form. -/
theorem passTwo_wf {cfg : Params} {labels : List (Text × Nat)} {lines : List SourceLine} {one one' : PassOne}
    {two two' : PassTwo} (hk : one.k = two.k) (hone : passOne cfg one lines = .ok one')
    (htwo : passTwo cfg labels two lines = .ok two') (hwf : two.Wf) : two'.Wf := by
  induction lines generalizing one two with
  | nil =>
    cases htwo
    exact hwf
  | cons line rest ih =>
    simp only [passOne, hk] at hone
    simp only [passTwo] at htwo
    split at hone
    · cases hone
    · next k hstmt =>
      split at htwo
      · cases htwo
      · next q hline =>
        obtain ⟨hq, hqwf⟩ := passTwoLine_inStep hstmt hline hwf
        exact ih hq.symm hone htwo hqwf

/-- A text that assembles over a canonical memory leaves memory and `istart` canonical. -/
theorem assembleText_wf {cfg : Params} {mem : List Host.Cell} {src : Text} {x : Assembled}
    (h : assembleText cfg mem src = .ok x) (hmem : Memory.wf mem = true) :
    Memory.wf x.mem = true ∧ addrsWf x.istart = true := by
  simp only [assembleText, except_bind_ok_iff, except_pure_ok_iff] at h
  obtain ⟨one, hone, two, htwo, rfl⟩ := h
  exact passTwo_wf rfl hone htwo ⟨hmem, rfl⟩

end Sys2Proof.Machine
end

section
/-! SUPPORT. The statements of 35_assembler.md: operand texts read back, labels that are not defined, and what Assemble
leaves. -/

namespace Sys2Proof.Machine

theorem inMap_of_whole {cfg : Params} (hlo : cfg.memMapLo = 0x0000) (hhi : cfg.memMapHi = 0xFFFF) (w : Word) :
    inMap cfg w.toNat = true := by
  have := w.isLt
  simp [inMap, hlo, hhi]
  omega

/-- Settles O4: the row of the instruction is found by its mnemonic, and its form reads its operand text. -/
theorem validatorReadsOperandText : Obligations.ValidatorReadsOperandText := by
  intro cfg labels i hwf hu hint hlo hhi
  obtain ⟨form, hrow, c, hc, hi⟩ := form_reads_operandText cfg i hwf hu hint (inMap_of_whole hlo hhi)
  have hline : checkLine cfg (Instr.mnemonic i) (Instr.operandText i) = .ok c := by
    rw [checkLine, lookupForm_of_mem cfg (List.mem_of_getElem? hrow)]
    exact hc
  rw [validate, hline]
  exact resolve_of_standsFor hi cfg labels

/-- Settles O59: each of the words heads a row with an address operand, which reads the name as a label reference. -/
theorem absentLabelIsUndefined : Obligations.AbsentLabelIsUndefined := by
  intro cfg labels name word hident hliteral habsent hword
  have hwords : word ∈ (branchForms.take 18).map Prod.fst := hword
  obtain ⟨⟨word, form⟩, hrow, rfl⟩ := List.mem_map.1 hwords
  obtain ⟨mk, rfl⟩ := addr_of_mem_jumpsAndCalls _ hrow
  have hlookup := lookupForm_of_mem cfg (mem_forms_of_mem_branchForms cfg (List.mem_of_mem_take hrow))
  rw [validate, checkLine_label cfg word name mk hlookup hident hliteral, except_bind_ok]
  simp only [resolve, resolveAddr, habsent]
  rfl

/-- Settles O60: `install` writes four fields, and the two of them that the invariant speaks of are canonical. -/
theorem assembleKeepsInv : Obligations.AssembleKeepsInv := by
  intro s t src x hs h
  obtain ⟨y, hy, h⟩ := (except_bind_ok_iff _ _ _).1 h
  cases h
  obtain ⟨hmem, hports, -, hrest⟩ := hs
  obtain ⟨hmem', histart'⟩ := assembleText_wf hy hmem
  exact ⟨⟨hmem', hports, histart', hrest⟩, rfl⟩

end Sys2Proof.Machine
end

section
/-! SUPPORT. The engine's laws that go with the inversion lemmas of a step: what a linear step answers once its fetch is
known, what each check of the fetch raises, that no meaning refuses, and what every step does to the step counter. The
facts that the statements of 40_engine.md are assembled from. -/

namespace Sys2Proof.Machine

/-! ### The engine's updates -/

@[simp] theorem countStep_present (s : State) (w : Word) : present (countStep s) w = present s w := rfl

theorem advance_of_not_writesPc {i : Instr} (h : writesPc i = false) (s : State) :
    advance i s = s.setPc (s.pc + BitVec.ofNat 16 i.length) := by
  simp [advance, h]

section
variable (i : Instr) (s : State)

/-! The advance writes `pc` alone (40_engine.md R176). -/

@[simp] theorem advance_steps : (advance i s).steps = s.steps := by unfold advance; split <;> rfl
@[simp] theorem advance_halted : (advance i s).halted = s.halted := by unfold advance; split <;> rfl
@[simp] theorem advance_cfg : (advance i s).cfg = s.cfg := by unfold advance; split <;> rfl

end

/-! ### Operand bytes -/

theorem opLength_cases (op : Byte) : opLength op = 1 ∨ opLength op = 2 ∨ opLength op = 3 := by
  obtain ⟨-, hpos, hle⟩ := encodeLength_all (decodeInstr op 0 0)
  unfold opLength
  omega

/-- The first byte alone gives the length (30_encoding.md R92). -/
theorem length_decodeInstr (op b1 b2 : Byte) : (decodeInstr op b1 b2).length = opLength op := by
  rw [decodeInstr_eq_withOperands, length_withOperands, opLength]

theorem memRead1_inRange (s : State) {a : Nat} (h : a < 65536) : memRead1 s (a : Int) = .ok (s.byteAt a) :=
  (memRead1_ok_iff s a _).2 ⟨a, effAddr_inRange s a (by omega), rfl⟩

/-- The first address past memory (20_memory.md R62). -/
theorem memRead1_top (s : State) (hf : s.cfg.addrWrap = .fault) :
    memRead1 s ((65536 : Nat) : Int) = .error (.invalidMemoryAddress (.address 65536)) :=
  (memRead1_error_iff s _ _).2 ((effAddr_error_iff s _ _).2 ⟨by omega, hf, rfl⟩)

/-! ### The fetch, by the length that the opcode byte gives (40_engine.md R175) -/

section
variable {s : State}

theorem fetch_length1 (h : opLength (s.byteAt s.pc.toNat) = 1) :
    fetch s = .ok (decodeInstr (s.byteAt s.pc.toNat) 0 0) := by
  simp only [fetch, State.load, h]
  rfl

theorem fetch_length2 (h : opLength (s.byteAt s.pc.toNat) = 2) :
    fetch s = memRead1 s ((s.pc.toNat + 1 : Nat) : Int) >>= fun b1 =>
      .ok (decodeInstr (s.byteAt s.pc.toNat) b1 0) := by
  simp only [fetch, State.load, h]
  rfl

theorem fetch_length3 (h : opLength (s.byteAt s.pc.toNat) = 3) :
    fetch s = memRead1 s ((s.pc.toNat + 1 : Nat) : Int) >>= fun b1 =>
      memRead1 s ((s.pc.toNat + 2 : Nat) : Int) >>= fun b2 => .ok (decodeInstr (s.byteAt s.pc.toNat) b1 b2) := by
  simp only [fetch, State.load, h]
  rfl

/-- Where the instruction at `pc` ends within memory, the fetch is the decoder over the bytes there. -/
theorem fetch_of_decode {i : Instr} {rest : List Byte}
    (hd : decode [s.byteAt s.pc.toNat, s.byteAt (s.pc.toNat + 1), s.byteAt (s.pc.toNat + 2)] = .ok (i, rest))
    (hend : s.pc.toNat + i.length ≤ 65536) : fetch s = .ok i := by
  rcases opLength_cases (s.byteAt s.pc.toNat) with hl | hl | hl
  · rw [decode_length1 hl] at hd
    cases hd
    exact fetch_length1 hl
  · rw [decode_length2 hl] at hd
    cases hd
    rw [length_decodeInstr, hl] at hend
    rw [fetch_length2 hl, memRead1_inRange s (by omega), except_bind_ok]
  · rw [decode_length3 hl] at hd
    cases hd
    rw [length_decodeInstr, hl] at hend
    rw [fetch_length3 hl, memRead1_inRange s (by omega), except_bind_ok, memRead1_inRange s (by omega), except_bind_ok]

/-- An instruction that does not end within memory: the first operand byte past it is the one at 65536, as `pc` is an
address of memory. -/
theorem fetch_past_memory (hf : s.cfg.addrWrap = .fault)
    (hend : 65536 < s.pc.toNat + opLength (s.byteAt s.pc.toNat)) :
    fetch s = .error (.invalidMemoryAddress (.address 65536)) := by
  have hpc := s.pc.isLt
  rcases opLength_cases (s.byteAt s.pc.toNat) with hl | hl | hl
  · omega
  · have htop : s.pc.toNat + 1 = 65536 := by omega
    rw [fetch_length2 hl, htop, memRead1_top s hf]
    rfl
  · rw [fetch_length3 hl]
    have htop : s.pc.toNat + 1 = 65536 ∨ s.pc.toNat + 2 = 65536 := by omega
    rcases htop with htop | htop
    · rw [htop, memRead1_top s hf]
      rfl
    · rw [memRead1_inRange s (by omega), except_bind_ok, htop, memRead1_top s hf]
      rfl

/-- A byte without a row is fetched as itself (46_machine_control.md R390). -/
theorem fetch_undefined (h : s.byteAt s.pc.toNat ∈ undefinedBytes) : fetch s = .ok (.undefined (s.byteAt s.pc.toNat)) := by
  have hd := decodeInstr_undefined (s.byteAt s.pc.toNat) 0 0 (List.contains_iff_mem.2 h)
  have hl : opLength (s.byteAt s.pc.toNat) = 1 := by rw [opLength, hd]; rfl
  rw [fetch_length1 hl, hd]

/-! ### The checks before the fetch, in the order of 40_engine.md R179 -/

theorem fetchChecked_budget (h : s.cfg.stepLimit < s.steps) :
    fetchChecked s = .error (.stepLimitExceeded (.pc s.pc)) := by
  have hb : checkBudget (.pc s.pc) s = .error (.stepLimitExceeded (.pc s.pc)) := if_pos h
  rw [fetchChecked, hb]
  rfl

theorem fetchChecked_absent (hs : s.steps ≤ s.cfg.stepLimit) (h : present s s.pc = false) :
    fetchChecked s = .error (.missingReturn s.pc) := by
  have hp : checkPresence s = .error (.missingReturn s.pc) := if_neg (by simp [h])
  rw [fetchChecked, (checkBudget_ok_iff _ s).2 hs, hp]
  rfl

theorem fetchChecked_eq_fetch (hs : s.steps ≤ s.cfg.stepLimit) (h : present s s.pc = true) :
    fetchChecked s = fetch s := by
  rw [fetchChecked, (checkBudget_ok_iff _ s).2 hs, (checkPresence_ok_iff s).2 h]
  rfl

end

/-! ### A linear step, once its fetch is known (40_engine.md R180) -/

section
variable {s : State} (hh : s.halted = false) (hb : s.block = none)
include hh hb

theorem step_linear : step s = linearStep s := by
  simp [step, hh, hb]

theorem step_of_fetch_error {k : Fault} (hf : fetchChecked (countStep s) = .error k) : step s = .fault k := by
  rw [step_linear hh hb, linearStep, hf]

theorem step_of_fetch_ok {i : Instr} (hf : fetchChecked (countStep s) = .ok i) :
    step s = advanceOutcome i (exec i (countStep s)) := by
  rw [step_linear hh hb, linearStep, hf]

end

/-! ### No meaning refuses -/

section
variable (w : Refusal)

theorem whenTaken_not_refused (ccc : Cond) (len : Word) (taken : State → Except Fault State) (s : State) :
    whenTaken ccc len taken s ≠ .refused w := by
  unfold whenTaken
  split
  · exact ofExcept_not_refused _ w
  · simp

theorem interruptOp_not_refused (op : Byte) (effect : State → State) (s : State) :
    interruptOp op effect s ≠ .refused w := by
  unfold interruptOp
  split
  · exact ofExcept_not_refused _ w
  · simp

theorem execUndefined_not_refused (op : Byte) (s : State) : execUndefined op s ≠ .refused w := by
  unfold execUndefined
  split
  · simp
  · exact ofExcept_not_refused _ w

theorem exec_not_refused (i : Instr) (s : State) : exec i s ≠ .refused w := by
  intro h
  cases i <;> simp only [exec] at h
  case lhld | shld | push | pop | xthl | jmp | pchl | call | rst | ret => exact ofExcept_not_refused _ w h
  case jnz | jz | jnc | jc | jpo | jpe | jp | jm | cnz | cz | cnc | cc | cpo | cpe | cp | cm | rnz | rz | rnc | rc
      | rpo | rpe | rp | rm =>
    exact whenTaken_not_refused w _ _ _ s h
  case ei | di | rim | sim => exact interruptOp_not_refused w _ _ s h
  case undefined op => exact execUndefined_not_refused w op s h
  all_goals cases h

theorem linearStep_not_refused (s : State) : linearStep s ≠ .refused w := by
  unfold linearStep
  split
  · simp
  · next i _ =>
    unfold advanceOutcome
    split
    · simp
    · simp
    · next hx => exact absurd hx (exec_not_refused _ i _)

theorem runOrdinary_not_refused (b : BlockRun) (o : HandlerOutcome) (i : Instr) (s : State) :
    runOrdinary b o i s ≠ .refused w := by
  unfold runOrdinary
  split
  · exact ofExcept_not_refused _ w
  · simp
  · next hx => exact absurd hx (exec_not_refused _ i s)

theorem runLine_not_refused (b : BlockRun) (word : Text) (c : Checked) (s : State) : runLine b word c s ≠ .refused w := by
  unfold runLine
  split
  · exact ofExcept_not_refused _ w
  · split
    · simp
    · exact runOrdinary_not_refused w _ _ _ _
  · exact runOrdinary_not_refused w _ _ _ _
  · exact ofExcept_not_refused _ w
  · exact ofExcept_not_refused _ w

theorem blockStep_not_refused (b : BlockRun) (s : State) : blockStep b s ≠ .refused w := by
  unfold blockStep
  split
  · simp
  · exact runLine_not_refused w _ _ _ _

/-- A run that has not ended is not refused its step, in either mode. -/
theorem step_not_refused {s : State} (hh : s.halted = false) : step s ≠ .refused w := by
  rw [step, if_neg (by simp [hh])]
  split
  · exact linearStep_not_refused w s
  · exact blockStep_not_refused w _ s

end

/-! ### The step counter through a step -/

/-- What the budget needs of a meaning: the run has ended, or the step counter and the parameters are as they were. -/
def EndsOrKeepsCount (s t : State) : Prop := t.halted = true ∨ (t.steps = s.steps ∧ t.cfg = s.cfg)

/-- The reset instruction, the one meaning that writes the step counter, ends the run (46_machine_control.md R389). -/
theorem exec_endsOrKeepsCount {i : Instr} {s t : State} (h : exec i s = .next t) : EndsOrKeepsCount s t := by
  cases hu : isUndefined i with
  | true =>
    rw [exec_next_of_isUndefined i s t hu h]
    exact .inl rfl
  | false =>
    obtain ⟨hsteps, -, -, hcfg⟩ := (exec_only i s t hu h).session_eq
    exact .inr ⟨hsteps, hcfg⟩

/-- The cursor of block mode is no part of what the budget speaks of (47_block_mode.md R404). -/
theorem actOn_endsOrKeepsCount {b : BlockRun} {o : HandlerOutcome} {ok : Bool} {s u t : State}
    (hu : EndsOrKeepsCount s u) (h : actOn b o ok u = .ok t) : EndsOrKeepsCount s t := by
  rcases actOn_ok h with rfl | ⟨b', rfl, -⟩ <;> exact hu

theorem runLine_endsOrKeepsCount {b : BlockRun} {word : Text} {c : Checked} {s t : State}
    (h : runLine b word c s = .next t) : EndsOrKeepsCount s t := by
  obtain ⟨o, ok, u, rfl | ⟨i, hu⟩ | rfl, ht⟩ := runLine_next h
  · exact actOn_endsOrKeepsCount (.inr ⟨rfl, rfl⟩) ht
  · exact actOn_endsOrKeepsCount (exec_endsOrKeepsCount hu) ht
  · exact actOn_endsOrKeepsCount (.inl rfl) ht

/-- A step with a next state was within the budget, and it ended the run or is counted in the next state. -/
theorem step_next_counted {s t : State} (h : step s = .next t) :
    s.steps + 1 ≤ s.cfg.stepLimit ∧ EndsOrKeepsCount (countStep s) t := by
  obtain ⟨-, ⟨-, hlin⟩ | ⟨b, -, hblk⟩⟩ := step_next s t h
  · obtain ⟨i, u, hbudget, -, -, hu, rfl⟩ := linearStep_next s t hlin
    have hcount := exec_endsOrKeepsCount hu
    exact ⟨hbudget, by simpa [EndsOrKeepsCount] using hcount⟩
  · obtain ⟨word, c, hbudget, ht⟩ := blockStep_next b s t hblk
    exact ⟨hbudget, runLine_endsOrKeepsCount ht⟩

/-! ### Runs -/

theorem run_succ_of_step {s t : State} (h : step s = .next t) (n : Nat) :
    Sys2Proof.core.run (n + 1) s = Sys2Proof.core.run n t := by
  have hc : Sys2Proof.core.step s = .next t := h
  simp only [Host.Core.run, hc]

/-- From `s`, `n` steps lead to a state that has halted or whose next step is a fault. -/
def EndsAfter (n : Nat) (s : State) : Prop :=
  ∃ t : State, Sys2Proof.core.run n s = .next t ∧ (t.halted = true ∨ ∃ k, step t = .fault k)

theorem endsAfter_zero_of_halted {s : State} (h : s.halted = true) : EndsAfter 0 s := ⟨s, rfl, .inl h⟩

theorem endsAfter_zero_of_fault {s : State} {k : Fault} (h : step s = .fault k) : EndsAfter 0 s :=
  ⟨s, rfl, .inr ⟨k, h⟩⟩

theorem endsAfter_succ_of_step {s t : State} {n : Nat} (h : step s = .next t) (ht : EndsAfter n t) :
    EndsAfter (n + 1) s := by
  obtain ⟨u, hrun, hu⟩ := ht
  exact ⟨u, (run_succ_of_step h n).trans hrun, hu⟩

/-- By induction on what is left of the budget: a step that neither faults nor ends the run uses up one of it. -/
theorem endsAfter_within (left : Nat) (s : State) (hh : s.halted = false) (hleft : s.cfg.stepLimit ≤ s.steps + left) :
    ∃ n ≤ left, EndsAfter n s := by
  induction left using Nat.strong_induction_on generalizing s with
  | _ left ih =>
    cases hstep : step s with
    | fault k => exact ⟨0, Nat.zero_le _, endsAfter_zero_of_fault hstep⟩
    | refused w => exact absurd hstep (step_not_refused w hh)
    | next t =>
      obtain ⟨hbudget, hcount⟩ := step_next_counted hstep
      cases ht : t.halted with
      | true => exact ⟨1, by omega, endsAfter_succ_of_step hstep (endsAfter_zero_of_halted ht)⟩
      | false =>
        obtain ⟨hsteps, hcfg⟩ := hcount.resolve_left (by simp [ht])
        have hless : t.cfg.stepLimit ≤ t.steps + (left - 1) := by
          rw [hsteps, hcfg, countStep_steps, countStep_cfg]
          omega
        obtain ⟨n, hn, hend⟩ := ih (left - 1) (by omega) t ht hless
        exact ⟨n + 1, by omega, endsAfter_succ_of_step hstep hend⟩

/-! ### The frame's part in `pc` and `halted` -/

/-- The frame names `pc` for the Branch instructions alone (40_engine.md R176). -/
theorem writes_pc_of_not_writesPc (s : State) (i : Instr) (h : writesPc i = false) : (Instr.writes s i).pc = false := by
  cases i
  case mov d _ | mvi d _ | inr d | dcr d => cases d <;> rfl
  case lxi p _ | inx p | dcx p | pop p => cases p <;> rfl
  all_goals first | rfl | cases h

/-- The frame names `halted` for `HLT` alone (46_machine_control.md R383). -/
theorem writes_halted_of_ne_hlt (s : State) (i : Instr) (h : i ≠ .hlt) : (Instr.writes s i).halted = false := by
  cases i
  case mov d _ | mvi d _ | inr d | dcr d => cases d <;> rfl
  case lxi p _ | inx p | dcx p | pop p => cases p <;> rfl
  case hlt => exact absurd rfl h
  all_goals rfl

theorem not_isUndefined_of_not_writesPc {i : Instr} (h : writesPc i = false) : isUndefined i = false := by
  cases i
  case undefined op => cases h
  all_goals rfl

end Sys2Proof.Machine
end

section
/-! SUPPORT. The statements of 40_engine.md: the writers of `pc` and of the session's data, the linear step, its checks in
their order, and the end of every run. -/

namespace Sys2Proof.Machine

/-- Settles O22: the frame names `pc` for branches and `halted` for `HLT`, and the session's data for no instruction. -/
theorem pcAndSessionWriters : Obligations.PcAndSessionWriters := by
  intro i s t hu h
  obtain ⟨-, -, -, -, hpc, -, -, -, hhalted, hsteps, histart, hlabels, hlisting, hblock, hcfg, -⟩ := exec_only i s t hu h
  exact ⟨fun hw => hpc (writes_pc_of_not_writesPc s i hw), fun hne => hhalted (writes_halted_of_ne_hlt s i hne), hsteps,
    histart, hlabels, hlisting, hblock, hcfg⟩

/-- Settles O5: the fetch passes its checks and is the decoder over the bytes at `pc`. -/
theorem stepRunsDecodedInstruction : Obligations.StepRunsDecodedInstruction := by
  intro s i rest hh hb hs hp hd hend
  have hf : fetchChecked (countStep s) = .ok i :=
    (fetchChecked_eq_fetch (s := countStep s) hs hp).trans (fetch_of_decode (s := countStep s) hd hend)
  rw [step_of_fetch_ok hh hb hf, countStep]
  cases exec i { s with steps := s.steps + 1 } with
  | next t => cases hw : writesPc i <;> simp [advanceOutcome, advance, hw, State.setPc]
  | fault k => rfl
  | refused w => rfl

/-- Settles O6: the meaning of an instruction that is no branch keeps `pc`, so the advance starts from the old one. -/
theorem stepAdvancesPc : Obligations.StepAdvancesPc := by
  intro s t i hb hf hw h
  obtain ⟨-, ⟨-, hlin⟩ | ⟨b, hblk, -⟩⟩ := step_next s t h
  · obtain ⟨j, u, -, -, hj, hx, rfl⟩ := linearStep_next s t hlin
    obtain ⟨-, -, hi⟩ := (fetchChecked_ok_iff _ i).1 hf
    obtain rfl : j = i := Except.ok.inj (hj.symm.trans hi)
    obtain ⟨hpc, -, hsteps, -⟩ := pcAndSessionWriters j _ u (not_isUndefined_of_not_writesPc hw) hx
    rw [advance_steps, advance_of_not_writesPc hw, State.setPc_pc, hpc hw]
    exact ⟨rfl, hsteps⟩
  · rw [hb] at hblk
    cases hblk

/-- Settles O7, one check after the other; the lookup's fault is that of the undefined byte's own meaning. -/
theorem fetchFaultsInOrder : Obligations.FetchFaultsInOrder := by
  intro s hh hb
  refine ⟨fun hs => ?_, fun hs hp => ?_, fun hs hp hop hreset => ?_, fun hs hp hwrap hend => ?_⟩
  · exact step_of_fetch_error hh hb (fetchChecked_budget (s := countStep s) (Nat.lt_succ_of_le hs))
  · exact step_of_fetch_error hh hb (fetchChecked_absent (s := countStep s) hs hp)
  · have hf : fetchChecked (countStep s) = .ok (.undefined (s.byteAt s.pc.toNat)) :=
      (fetchChecked_eq_fetch (s := countStep s) hs hp).trans (fetch_undefined (s := countStep s) hop)
    have hx : exec (.undefined (s.byteAt s.pc.toNat)) (countStep s)
        = .fault (.unknownInstruction (.byte s.pc (s.byteAt s.pc.toNat))) := if_neg hreset
    rw [step_of_fetch_ok hh hb hf, hx]
    rfl
  · exact step_of_fetch_error hh hb
      ((fetchChecked_eq_fetch (s := countStep s) hs hp).trans (fetch_past_memory (s := countStep s) hwrap hend))

/-- Settles O8: neither engine refuses, so the refusal is that of the ended run. -/
theorem onlyHaltedIsRefused : Obligations.OnlyHaltedIsRefused := by
  intro s w
  cases hh : s.halted with
  | false => simp [step_not_refused w hh]
  | true => simp [step, hh, eq_comm]

/-- Settles O9 from `endsAfter_within`. -/
theorem everyRunEnds : Obligations.EveryRunEnds := by
  intro s hh
  obtain ⟨n, hn, t, hrun, hend⟩ := endsAfter_within (s.cfg.stepLimit - s.steps) s hh (by omega)
  exact ⟨n, t, hn, hrun, hend⟩

end Sys2Proof.Machine
end

section
/-! SUPPORT. The next state of each Data instruction and of `SPHL` and `PCHL`, and what a write of an operand leaves to be
read: the facts that the statements of 41_data_transfer.md are assembled from. -/

namespace Sys2Proof.Machine

/-! ### The halves of a pair (10_state.md R22) -/

@[simp] theorem State.hi_pair (s : State) (p : Pair) : hi (s.pair p) = s.reg (Pair.hiReg p) := hi_cat _ _

@[simp] theorem State.lo_pair (s : State) (p : Pair) : lo (s.pair p) = s.reg (Pair.loReg p) := lo_cat _ _

theorem State.reg_setPair (s : State) (p : Pair) (v : Word) (x : Reg) :
    (s.setPair p v).reg x = if x = Pair.loReg p then lo v else if x = Pair.hiReg p then hi v else s.reg x := by
  simp [State.setPair]

/-! ### An operand read after it was written -/

theorem State.reg_setReg_same (s : State) (x : Reg) (v : Byte) : (s.setReg x v).reg x = v := by
  simp

theorem State.reg_writeRM (s : State) (x : Reg) (v : Byte) : (s.writeRM (.reg x) v).reg x = v :=
  s.reg_setReg_same x v

theorem State.byteAt_store_same (s : State) (w : Word) (v : Byte) : (s.store w v).byteAt w.toNat = v := by
  simp

theorem State.byteAt_writeRM (s : State) (v : Byte) : (s.writeRM .m v).byteAt s.hlAddr = v :=
  s.byteAt_store_same (s.pair .h) v

theorem State.readPairSp_writePairSp (s : State) (rp : PairSp) (w : Word) :
    (s.writePairSp rp w).readPairSp rp = w := by
  cases rp with
  | pair p => exact s.pair_setPair p w
  | sp => rfl

/-! ### The next state of each instruction (41_data_transfer.md R201 to R213, 44_branch.md R340, 45_stack.md R366) -/

section
variable (s : State)

theorem exec_mov (dst src : RegM) : exec (.mov dst src) s = .next (s.writeRM dst (s.readRM src)) := rfl

theorem exec_mvi (dst : RegM) (v : Byte) : exec (.mvi dst v) s = .next (s.writeRM dst v) := rfl

theorem exec_lxi (rp : PairSp) (w : Word) : exec (.lxi rp w) s = .next (s.writePairSp rp w) := rfl

theorem exec_lda (w : Word) : exec (.lda w) s = .next (s.setReg .a (s.byteAt w.toNat)) := rfl

theorem exec_sta (w : Word) : exec (.sta w) s = .next (s.store w (s.reg .a)) := rfl

theorem exec_ldax (rp : PairBD) : exec (.ldax rp) s = .next (s.setReg .a (s.byteAt (s.readPairBD rp).toNat)) := rfl

theorem exec_stax (rp : PairBD) : exec (.stax rp) s = .next (s.store (s.readPairBD rp) (s.reg .a)) := rfl

theorem exec_xchg : exec .xchg s = .next ((s.setPair .h (s.pair .d)).setPair .d (s.pair .h)) := rfl

theorem exec_sphl : exec .sphl s = .next (s.setSp (s.pair .h)) := rfl

theorem exec_pchl : exec .pchl s = .next (s.setPc (s.pair .h)) := rfl

end

/-- `LHLD` loads HL from the two cells of its access. -/
theorem exec_lhld_of_slots {s : State} {w : Word} {x y : Nat} (h : slots s w.toNat = .ok (x, y)) :
    exec (.lhld w) s = .next (s.setPair .h (cat (s.byteAt y) (s.byteAt x))) :=
  (ofExcept_next_iff _ _).2 ((bind_ok_iff _ _ _).2 ⟨_, (memRead2_ok_iff s _ _).2 ⟨x, y, h, rfl⟩, rfl⟩)

/-- `SHLD` is the 16-bit store of HL. -/
theorem exec_shld_next_iff (w : Word) (s t : State) :
    exec (.shld w) s = .next t ↔ memWrite2 s w.toNat (s.pair .h) = .ok t := ofExcept_next_iff _ t

end Sys2Proof.Machine
end

section
/-! SUPPORT. The statements of 41_data_transfer.md: moves, immediate loads, loads and stores of A and of HL, and the
exchange and copies of HL. -/

namespace Sys2Proof.Machine

/-- Settles O27: both write an operand, which reads back; the value is the source in the state before. -/
theorem movAndMvi : Obligations.MovAndMvi := by
  intro s dst src r v
  refine ⟨⟨_, exec_mov s (.reg dst) src, ?_, only_writeRM s (.reg dst) _⟩,
    ⟨_, exec_mov s .m (.reg r), s.byteAt_writeRM _, only_writeRM s .m _⟩,
    ⟨_, exec_mvi s (.reg dst) v, s.reg_writeRM dst v, only_writeRM s (.reg dst) v⟩,
    ⟨_, exec_mvi s .m v, s.byteAt_writeRM v, only_writeRM s .m v⟩⟩
  cases src with
  | reg x => exact s.reg_writeRM dst (s.reg x)
  | m => exact s.reg_writeRM dst (s.byteAt s.hlAddr)

/-- Settles O28: the pair or `sp` reads back what was written. -/
theorem lxiLoads : Obligations.LxiLoads := by
  intro s rp w
  exact ⟨_, exec_lxi s rp w, s.readPairSp_writePairSp rp w, only_writePairSp s rp w⟩

/-- Settles O29: each form writes A or one byte, from the state before. -/
theorem accumulatorLoadsAndStores : Obligations.AccumulatorLoadsAndStores := by
  intro s w rp
  exact ⟨⟨_, exec_lda s w, s.reg_setReg_same .a _, only_setReg s .a _⟩,
    ⟨_, exec_sta s w, s.byteAt_store_same w _, only_storeByte s _ _⟩,
    ⟨_, exec_ldax s rp, s.reg_setReg_same .a _, only_setReg s .a _⟩,
    ⟨_, exec_stax s rp, s.byteAt_store_same _ _, only_storeByte s _ _⟩⟩

/-- Settles O30: the word at the cells has H in its high half and L in its low half, both ways. -/
theorem lhldAndShld : Obligations.LhldAndShld := by
  intro s w x y hs
  constructor
  · refine ⟨_, exec_lhld_of_slots hs, ?_, ?_, only_setPair s .h _⟩
    · exact (s.reg_setPair_loReg .h _).trans (lo_cat _ _)
    · exact (s.reg_setPair_hiReg .h _).trans (hi_cat _ _)
  · obtain ⟨t, ht⟩ : ∃ t, memWrite2 s w.toNat (s.pair .h) = .ok t :=
      ⟨_, (memWrite2_ok_iff _ _ _ _).2 ⟨x, y, hs, rfl⟩⟩
    obtain ⟨hlo, hhi⟩ := memWrite2_byteAt hs ht
    refine ⟨t, (exec_shld_next_iff w s t).2 ht, hlo.trans (s.lo_pair .h), hhi.trans (s.hi_pair .h), ?_⟩
    rw [← slotCells_of_slots hs]
    exact only_memWrite2 s t _ _ ht

/-- `XCHG` writes the four halves; the write of DE keeps what HL was given. -/
theorem only_exchange (s : State) (v w : Word) :
    Only { regs := [.d, .e, .h, .l] } s ((s.setPair .h v).setPair .d w) := by
  refine only_weaken _ _ _ _ (only_trans _ _ _ _ _ (only_setPair s .h v) (only_setPair _ .d w))
    ?_ ?_ ?_ ?_ ?_ ?_ ?_ ?_ <;> simp [Writes.join, Pair.hiReg, Pair.loReg]

/-- The halves after `XCHG`: DE as it was written last, HL as it was written before. -/
theorem reg_exchange (s : State) (v w : Word) :
    ((s.setPair .h v).setPair .d w).reg .h = hi v ∧ ((s.setPair .h v).setPair .d w).reg .l = lo v
      ∧ ((s.setPair .h v).setPair .d w).reg .d = hi w ∧ ((s.setPair .h v).setPair .d w).reg .e = lo w := by
  simp [State.reg_setPair, Pair.hiReg, Pair.loReg]

/-- Settles O31: each half reads the other pair's half of the state before; the copies write one field. -/
theorem exchangesAndCopiesOfHl : Obligations.ExchangesAndCopiesOfHl := by
  intro s
  obtain ⟨hh, hl, hd, he⟩ := reg_exchange s (s.pair .d) (s.pair .h)
  exact ⟨⟨_, exec_xchg s, hh.trans (s.hi_pair .d), hl.trans (s.lo_pair .d), hd.trans (s.hi_pair .h),
      he.trans (s.lo_pair .h), only_exchange s _ _⟩,
    ⟨_, exec_sphl s, rfl, only_setSp s _⟩, ⟨_, exec_pchl s, rfl, only_setPc s _⟩⟩

end Sys2Proof.Machine
end

section
/-! SUPPORT. The next state of each Arithmetic instruction, what the shared `addTo` and `subFrom` leave in A and in the
flags, `DAA` by its two corrections, and the decimal digits it settles: the facts that the statements of 42_arithmetic.md
are assembled from. -/

namespace Sys2Proof.Machine

/-! ### The next state of each instruction (42_arithmetic.md R233 to R252) -/

section
variable (s : State)

theorem exec_add (src : RegM) : exec (.add src) s = .next (addTo s (s.readRM src) false) := rfl

theorem exec_adi (v : Byte) : exec (.adi v) s = .next (addTo s v false) := rfl

theorem exec_adc (src : RegM) : exec (.adc src) s = .next (addTo s (s.readRM src) s.f.cy) := rfl

theorem exec_aci (v : Byte) : exec (.aci v) s = .next (addTo s v s.f.cy) := rfl

theorem exec_sub (src : RegM) : exec (.sub src) s = .next (subFrom s (s.readRM src) false) := rfl

theorem exec_sui (v : Byte) : exec (.sui v) s = .next (subFrom s v false) := rfl

theorem exec_sbb (src : RegM) : exec (.sbb src) s = .next (subFrom s (s.readRM src) s.f.cy) := rfl

theorem exec_sbi (v : Byte) : exec (.sbi v) s = .next (subFrom s v s.f.cy) := rfl

theorem exec_inr (d : RegM) :
    exec (.inr d) s = .next ((s.writeRM d (inc8 (s.readRM d) s.f).1).setFlags (inc8 (s.readRM d) s.f).2) := rfl

theorem exec_dcr (d : RegM) :
    exec (.dcr d) s = .next ((s.writeRM d (dec8 s.cfg.acSubPolarity (s.readRM d) s.f).1).setFlags
      (dec8 s.cfg.acSubPolarity (s.readRM d) s.f).2) := rfl

theorem exec_inx (rp : PairSp) : exec (.inx rp) s = .next (s.writePairSp rp (s.readPairSp rp + 1)) := rfl

theorem exec_dcx (rp : PairSp) : exec (.dcx rp) s = .next (s.writePairSp rp (s.readPairSp rp - 1)) := rfl

theorem exec_dad (rp : PairSp) :
    exec (.dad rp) s = .next ((s.setPair .h (add16 (s.pair .h) (s.readPairSp rp)).1).setCy
      (add16 (s.pair .h) (s.readPairSp rp)).2) := rfl

theorem exec_daa : exec .daa s = .next ((s.setReg .a (daa8 (s.reg .a) s.f).1).setFlags (daa8 (s.reg .a) s.f).2) := rfl

/-! ### A and the flags after the shared additions and subtractions (42_arithmetic.md R230) -/

theorem State.regA_setA_setFlags (v : Byte) (f : Flags) : ((s.setReg .a v).setFlags f).reg .a = v :=
  s.reg_setReg_same .a v

theorem addTo_regA (v : Byte) (c : Bool) : (addTo s v c).reg .a = (add8 (s.reg .a) v c).1 :=
  s.regA_setA_setFlags _ _

theorem addTo_f (v : Byte) (c : Bool) : (addTo s v c).f = (add8 (s.reg .a) v c).2 := rfl

theorem only_addTo (v : Byte) (c : Bool) : Only { regs := [.a], flags := true } s (addTo s v c) :=
  only_setA_setFlags s _ _

theorem subFrom_regA (v : Byte) (c : Bool) :
    (subFrom s v c).reg .a = (sub8 s.cfg.acSubPolarity (s.reg .a) v c).1 :=
  (subFlags s v c).reg_setReg_same .a _

theorem subFrom_f (v : Byte) (c : Bool) : (subFrom s v c).f = (sub8 s.cfg.acSubPolarity (s.reg .a) v c).2 := rfl

/-! ### An operand read after `INR`, `DCR` or `DAD` wrote it and the flags -/

theorem State.reg_writeRM_setFlags (x : Reg) (v : Byte) (f : Flags) :
    ((s.writeRM (.reg x) v).setFlags f).reg x = v := s.reg_writeRM x v

theorem State.byteAt_writeRM_setFlags (v : Byte) (f : Flags) :
    ((s.writeRM .m v).setFlags f).byteAt s.hlAddr = v := s.byteAt_writeRM v

theorem State.pair_setPair_setCy (p : Pair) (v : Word) (b : Bool) : ((s.setPair p v).setCy b).pair p = v :=
  s.pair_setPair p v

end

/-! ### 16-bit results (42_arithmetic.md R249 to R251) -/

theorem word_add_one_toNat (w : Word) : (w + 1).toNat = (w.toNat + 1) % 65536 := BitVec.toNat_add w 1

theorem word_sub_one_toNat (w : Word) : (w - 1).toNat = (w.toNat + 65535) % 65536 := by
  rw [BitVec.toNat_sub, Nat.add_comm]; rfl

theorem add16_res (x y : Word) : (add16 x y).1.toNat = (x.toNat + y.toNat) % 65536 := by simp [add16]

theorem add16_cy (x y : Word) : (add16 x y).2 = true ↔ 65535 < x.toNat + y.toNat := by simp [add16]

/-! ### `DAA` by its two corrections (42_arithmetic.md R252) -/

/-- The accumulator after the correction of the low digit, unbounded. -/
def daaLow (a : Byte) (f : Flags) : Nat := if 9 < a.toNat % 16 ∨ f.ac = true then a.toNat + 6 else a.toNat

/-- The accumulator after both corrections, unbounded. -/
def daaBoth (a : Byte) (f : Flags) : Nat :=
  if 9 < daaLow a f / 16 ∨ f.cy = true then daaLow a f + 96 else daaLow a f

section
variable (a : Byte) (f : Flags)

theorem daaLow_eq_add : daaLow a f = a.toNat + if (decide (a.toNat % 16 > 9) || f.ac) = true then 6 else 0 := by
  simp only [daaLow, Bool.or_eq_true, decide_eq_true_eq, gt_iff_lt]
  split <;> rfl

/-- The result is the doubly corrected accumulator modulo 256. -/
theorem daa8_res : (daa8 a f).1.toNat = daaBoth a f % 256 := by
  simp only [daa8, BitVec.toNat_ofNat]
  rw [← daaLow_eq_add]
  simp only [daaBoth, Bool.or_eq_true, decide_eq_true_eq, gt_iff_lt]
  split <;> rfl

/-- Carry is set exactly where the high digit was corrected. -/
theorem daa8_cy : (daa8 a f).2.cy = true ↔ 9 < daaLow a f / 16 ∨ f.cy = true := by
  simp only [daa8, flagsOf]
  rw [← daaLow_eq_add, Bool.or_eq_true, decide_eq_true_eq]

/-- A low digit that carries on adding 6 is above 9, so it is corrected whatever AuxiliaryCarry was. -/
theorem daa8_ac : (daa8 a f).2.ac = true ↔ 10 ≤ a.toNat % 16 := by
  simp only [daa8, flagsOf, Bool.and_eq_true, Bool.or_eq_true, decide_eq_true_eq]
  omega

end

/-! ### Decimal digits through an addition and `DAA` (42_arithmetic.md R231, R252) -/

/-- Result and Carry together hold the unbounded sum of `ADD8`. -/
theorem add8_sum (a b : Byte) (c : Bool) :
    (add8 a b c).1.toNat + 256 * (add8 a b c).2.cy.toNat = a.toNat + b.toNat + c.toNat := by
  have hres := add8_res a b c
  have hcy := add8_cy a b c
  have := a.isLt
  have := b.isLt
  have := c.toNat_le
  cases h : (add8 a b c).2.cy with
  | false =>
    have hle : ¬ 255 < a.toNat + b.toNat + c.toNat := fun hlt => by simp [hcy.2 hlt] at h
    simp only [Bool.toNat_false]
    omega
  | true =>
    have hlt := hcy.1 h
    simp only [Bool.toNat_true]
    omega

theorem bcd_toNat {n : Nat} (h : n < 100) : (bcd n).toNat = n / 10 * 16 + n % 10 := by
  simp only [bcd, BitVec.toNat_ofNat]
  omega

/-- An accumulator and flags after the addition of two decimals whose tens sum to `p` and whose units, with the carry in,
sum to `q`: nothing is corrected yet, so Carry and AuxiliaryCarry are those of sixteens. -/
structure HoldsDigitSums (a : Byte) (f : Flags) (p q : Nat) : Prop where
  tens_le : p ≤ 18
  units_le : q ≤ 19
  sum : a.toNat + 256 * f.cy.toNat = 16 * p + q
  aux : f.ac = true ↔ 15 < q

theorem add8_bcd_holdsDigitSums {m n : Nat} (hm : m < 100) (hn : n < 100) (c : Bool) :
    HoldsDigitSums (add8 (bcd m) (bcd n) c).1 (add8 (bcd m) (bcd n) c).2 (m / 10 + n / 10)
      (m % 10 + n % 10 + c.toNat) where
  tens_le := by omega
  units_le := by have := c.toNat_le; omega
  sum := by rw [add8_sum, bcd_toNat hm, bcd_toNat hn]; omega
  aux := by
    have hlow (k : Nat) : (k / 10 * 16 + k % 10) % 16 = k % 10 := by omega
    rw [add8_ac, bcd_toNat hm, bcd_toNat hn, hlow, hlow]

section
variable {a : Byte} {f : Flags} {p q : Nat}

/-- The first correction makes the units a decimal digit and carries ten units into the tens. -/
theorem HoldsDigitSums.daaLow_eq (h : HoldsDigitSums a f p q) :
    daaLow a f + 256 * f.cy.toNat = 16 * (p + q / 10) + q % 10 := by
  obtain ⟨-, hunits, hsum, haux⟩ := h
  have hlow : a.toNat % 16 = q % 16 := by omega
  have hcorrected : (9 < a.toNat % 16 ∨ f.ac = true) ↔ 9 < q := by rw [hlow, haux]; omega
  simp only [daaLow, hcorrected]
  split <;> omega

/-- The high digit is corrected exactly when the tens, with that carry, make a hundred. -/
theorem HoldsDigitSums.high_iff (h : HoldsDigitSums a f p q) :
    (9 < daaLow a f / 16 ∨ f.cy = true) ↔ 10 ≤ p + q / 10 := by
  have hlow := h.daaLow_eq
  cases hcy : f.cy with
  | false =>
    simp only [hcy, Bool.toNat_false] at hlow
    simp only [Bool.false_eq_true, or_false]
    omega
  | true =>
    simp only [hcy, Bool.toNat_true] at hlow
    simp only [or_true, true_iff]
    omega

/-- Both corrections leave the two decimal digits, modulo a hundred. -/
theorem HoldsDigitSums.daaBoth_eq (h : HoldsDigitSums a f p q) :
    daaBoth a f % 256 = 16 * ((p + q / 10) % 10) + q % 10 := by
  have hlow := h.daaLow_eq
  have hhigh := h.high_iff
  have htens : p + q / 10 < 20 := by have := h.tens_le; have := h.units_le; omega
  have hunit : q % 10 < 10 := Nat.mod_lt _ (by decide)
  simp only [daaBoth, hhigh]
  generalize p + q / 10 = tens at *
  generalize q % 10 = unit at *
  split <;> omega

/-- `DAA` leaves the decimal coding of the sum below a hundred. -/
theorem HoldsDigitSums.daa8_res_eq_bcd (h : HoldsDigitSums a f p q) : (daa8 a f).1 = bcd ((10 * p + q) % 100) := by
  apply BitVec.eq_of_toNat_eq
  rw [daa8_res, h.daaBoth_eq, bcd_toNat (Nat.mod_lt _ (by decide))]
  omega

/-- `DAA` leaves the hundreds digit in Carry. -/
theorem HoldsDigitSums.daa8_cy_iff (h : HoldsDigitSums a f p q) : (daa8 a f).2.cy = true ↔ 100 ≤ 10 * p + q := by
  rw [daa8_cy, h.high_iff]
  omega

end

end Sys2Proof.Machine
end

section
/-! SUPPORT. The statements of 42_arithmetic.md: the 8-bit additions and subtractions, the steps by one, `DAD` and
`DAA`. -/

namespace Sys2Proof.Machine

/-- Settles O32: every form is `addTo` with its operand and carry in, whose result and flags are those of `ADD8`. -/
theorem addGroupAdds : Obligations.AddGroupAdds := by
  intro s i v cin hform
  have hexec : exec i s = .next (addTo s v cin) := by
    rcases hform with ⟨src, rfl, rfl, rfl⟩ | ⟨rfl, rfl⟩ | ⟨src, rfl, rfl, rfl⟩ | ⟨rfl, rfl⟩
    · exact exec_add s src
    · exact exec_adi s v
    · exact exec_adc s src
    · exact exec_aci s v
  refine ⟨_, hexec, ?_⟩
  rw [addTo_regA, addTo_f]
  exact ⟨add8_res _ _ _, add8_cy _ _ _, add8_ac _ _ _, add8_result _ _ _, only_addTo s v cin⟩

/-- Settles O33: every form is `subFrom` with its operand and borrow in, whose result and flags are those of `SUB8`. -/
theorem subGroupSubtracts : Obligations.SubGroupSubtracts := by
  intro s i v bin hform
  have hexec : exec i s = .next (subFrom s v bin) := by
    rcases hform with ⟨src, rfl, rfl, rfl⟩ | ⟨rfl, rfl⟩ | ⟨src, rfl, rfl, rfl⟩ | ⟨rfl, rfl⟩
    · exact exec_sub s src
    · exact exec_sui s v
    · exact exec_sbb s src
    · exact exec_sbi s v
  refine ⟨_, hexec, ?_⟩
  rw [subFrom_regA, subFrom_f]
  exact ⟨sub8_res _ _ _ _, sub8_cy _ _ _ _, sub8_ac _ _ _ _, sub8_result _ _ _ _, only_subFrom s v bin⟩

/-- Settles O35: the operand reads back what was written, and the result and flags are those of `inc8` and `dec8`. -/
theorem inrAndDcr : Obligations.InrAndDcr := by
  intro s
  refine ⟨fun x => ⟨_, exec_inr s (.reg x), ?_⟩, ⟨_, exec_inr s .m, ?_⟩, fun x => ⟨_, exec_dcr s (.reg x), ?_⟩,
    ⟨_, exec_dcr s .m, ?_⟩⟩
  · rw [State.reg_writeRM_setFlags]
    exact ⟨inc8_res _ _, inc8_ac _ _, rfl, inc8_result _ _, only_writeRM_flags s (.reg x) _ _⟩
  · rw [State.byteAt_writeRM_setFlags]
    exact ⟨inc8_res _ _, inc8_ac _ _, rfl, inc8_result _ _, only_writeRM_flags s .m _ _⟩
  · rw [State.reg_writeRM_setFlags]
    exact ⟨dec8_res _ _ _, dec8_ac _ _ _, rfl, dec8_result _ _ _, only_writeRM_flags s (.reg x) _ _⟩
  · rw [State.byteAt_writeRM_setFlags]
    exact ⟨dec8_res _ _ _, dec8_ac _ _ _, rfl, dec8_result _ _ _, only_writeRM_flags s .m _ _⟩

/-- Settles O36: the operand reads back what was written, one more or one less as a word. -/
theorem inxAndDcx : Obligations.InxAndDcx := by
  intro s rp
  refine ⟨⟨_, exec_inx s rp, ?_, only_writePairSp s rp _⟩, ⟨_, exec_dcx s rp, ?_, only_writePairSp s rp _⟩⟩
  · rw [State.readPairSp_writePairSp, word_add_one_toNat]
  · rw [State.readPairSp_writePairSp, word_sub_one_toNat]

/-- `DAD` writes HL and then Carry. -/
theorem only_setHl_setCy (s : State) (v : Word) (b : Bool) :
    Only { regs := [.h, .l], flags := true } s ((s.setPair .h v).setCy b) :=
  only_trans _ _ _ _ _ (only_setPair s .h v) (only_setCy _ b)

/-- Settles O37: HL reads back the sum of `add16`, and `setCy` keeps the other four flags. -/
theorem dadAdds : Obligations.DadAdds := by
  intro s rp
  refine ⟨_, exec_dad s rp, ?_, add16_cy _ _, rfl, only_setHl_setCy s _ _⟩
  rw [State.pair_setPair_setCy, add16_res]

/-- Settles O38: the statement's two values are `daaLow` and `daaBoth`. -/
theorem daaAdjusts : Obligations.DaaAdjusts := by
  rintro s _ t u rfl ht hu
  have hlow : t = daaLow (s.reg .a) s.f := ht
  subst hlow
  have hboth : u = daaBoth (s.reg .a) s.f := hu
  refine ⟨_, exec_daa s, ?_⟩
  rw [State.regA_setA_setFlags, State.setFlags_f, hboth]
  exact ⟨daa8_res _ _, daa8_cy _ _, daa8_ac _ _, daa8_result _ _, only_setA_setFlags s _ _⟩

/-- Settles O39: `ACI` leaves the digit sums in sixteens, and `DAA` turns them into decimal digits and a hundred. -/
theorem daaAfterDecimalAdd : Obligations.DaaAfterDecimalAdd := by
  intro s t m n hm hn ha ht
  obtain rfl : addTo s (bcd n) s.f.cy = t := Host.Outcome.next.inj ((exec_aci s (bcd n)).symm.trans ht)
  have hdigits := add8_bcd_holdsDigitSums hm hn s.f.cy
  have hsum : 10 * (m / 10 + n / 10) + (m % 10 + n % 10 + s.f.cy.toNat) = m + n + s.f.cy.toNat := by omega
  refine ⟨_, exec_daa _, ?_⟩
  rw [State.regA_setA_setFlags, State.setFlags_f, addTo_regA, addTo_f, ha, ← hsum]
  exact ⟨hdigits.daa8_res_eq_bcd, hdigits.daa8_cy_iff⟩

end Sys2Proof.Machine
end

section
/-! SUPPORT. The next state of each Logical instruction, and the rotates and the complement bit by bit: the facts that
the statements of 43_logical.md are assembled from. -/

namespace Sys2Proof.Machine

/-! ### The next state of each instruction (43_logical.md R271 to R289) -/

section
variable (s : State)

theorem exec_ana (src : RegM) : exec (.ana src) s = .next (andTo s (s.readRM src)) := rfl

theorem exec_ani (v : Byte) : exec (.ani v) s = .next (andTo s v) := rfl

theorem exec_xra (src : RegM) : exec (.xra src) s = .next (xorTo s (s.readRM src)) := rfl

theorem exec_xri (v : Byte) : exec (.xri v) s = .next (xorTo s v) := rfl

theorem exec_ora (src : RegM) : exec (.ora src) s = .next (orTo s (s.readRM src)) := rfl

theorem exec_ori (v : Byte) : exec (.ori v) s = .next (orTo s v) := rfl

theorem exec_cmp (src : RegM) : exec (.cmp src) s = .next (subFlags s (s.readRM src) false) := rfl

theorem exec_cpi (v : Byte) : exec (.cpi v) s = .next (subFlags s v false) := rfl

/-- `RLC` is the rotate through a Carry that holds bit 7. -/
theorem exec_rlc : exec .rlc s = .next (rotateTo s (rotLeftCy (s.reg .a) ((s.reg .a).getLsbD 7))) := rfl

/-- `RRC` is the rotate through a Carry that holds bit 0. -/
theorem exec_rrc : exec .rrc s = .next (rotateTo s (rotRightCy (s.reg .a) ((s.reg .a).getLsbD 0))) := rfl

theorem exec_ral : exec .ral s = .next (rotateTo s (rotLeftCy (s.reg .a) s.f.cy)) := rfl

theorem exec_rar : exec .rar s = .next (rotateTo s (rotRightCy (s.reg .a) s.f.cy)) := rfl

theorem exec_cma : exec .cma s = .next (s.setReg .a (255 - s.reg .a)) := rfl

theorem exec_cmc : exec .cmc s = .next (s.setCy (!s.f.cy)) := rfl

theorem exec_stc : exec .stc s = .next (s.setCy true) := rfl

/-! ### A and the flags after the shared updates (43_logical.md R270) -/

theorem subFlags_f (v : Byte) (c : Bool) : (subFlags s v c).f = (sub8 s.cfg.acSubPolarity (s.reg .a) v c).2 := rfl

theorem only_subFlags (v : Byte) (c : Bool) : Only { flags := true } s (subFlags s v c) := only_setFlags s _

theorem andTo_eq (v : Byte) :
    andTo s v = (s.setReg .a (s.reg .a &&& v)).setFlags (flagsOf (s.reg .a &&& v) true false) := rfl

theorem xorTo_eq (v : Byte) :
    xorTo s v = (s.setReg .a (s.reg .a ^^^ v)).setFlags (flagsOf (s.reg .a ^^^ v) false false) := rfl

theorem orTo_eq (v : Byte) :
    orTo s v = (s.setReg .a (s.reg .a ||| v)).setFlags (flagsOf (s.reg .a ||| v) false false) := rfl

theorem rotateTo_regA (x : Byte × Bool) : (rotateTo s x).reg .a = x.1 := s.reg_setReg_same .a _

theorem rotateTo_f (x : Byte × Bool) : (rotateTo s x).f = { s.f with cy := x.2 } := rfl

theorem only_rotateTo (x : Byte × Bool) : Only { regs := [.a], flags := true } s (rotateTo s x) :=
  only_setA_setCy s _ _

end

/-! ### The flags of a comparison (43_logical.md R280 to R282, 42_arithmetic.md R232) -/

section
variable (pol : AcPolarity) (a b : Byte)

theorem sub8_z_iff_eq : (sub8 pol a b false).2.z = true ↔ a = b := by
  obtain ⟨hz, -, -⟩ := sub8_result pol a b false
  rw [hz, sub8_eq_sub]
  exact sub_eq_zero

theorem sub8_cy_iff_lt : (sub8 pol a b false).2.cy = true ↔ a.toNat < b.toNat := sub8_cy pol a b false

end

/-! ### The rotates and the complement, bit by bit (43_logical.md R283 to R287) -/

section
variable (a : Byte) (c : Bool)

/-- A rotate left puts the carry in below the seven low bits. -/
theorem rotLeftCy_res : (rotLeftCy a c).1 = BitVec.concat (a.setWidth 7) c := by
  apply BitVec.eq_of_toNat_eq
  have := c.toNat_le
  simp only [rotLeftCy, BitVec.toNat_ofNat, BitVec.toNat_concat, BitVec.toNat_setWidth]
  omega

/-- A rotate right puts the carry in above the seven high bits. -/
theorem rotRightCy_res : (rotRightCy a c).1 = BitVec.cons c (a.extractLsb' 1 7) := by
  apply BitVec.eq_of_toNat_eq
  have := c.toNat_le
  have := a.isLt
  simp only [rotRightCy, BitVec.toNat_ofNat, BitVec.toNat_cons', BitVec.extractLsb'_toNat, Nat.shiftLeft_eq,
    Nat.shiftRight_eq_div_pow]
  omega

theorem rotLeftCy_getLsbD_succ {k : Nat} (hk : k < 7) : (rotLeftCy a c).1.getLsbD (k + 1) = a.getLsbD k := by
  rw [rotLeftCy_res, BitVec.getLsbD_concat_succ, BitVec.getLsbD_setWidth]
  simp [hk]

theorem rotLeftCy_getLsbD_zero : (rotLeftCy a c).1.getLsbD 0 = c := by
  rw [rotLeftCy_res, BitVec.getLsbD_concat_zero]

theorem rotRightCy_getLsbD {k : Nat} (hk : k < 7) : (rotRightCy a c).1.getLsbD k = a.getLsbD (k + 1) := by
  rw [rotRightCy_res, BitVec.getLsbD_cons, if_neg hk.ne, BitVec.getLsbD_extractLsb', Nat.add_comm 1 k]
  simp [hk]

theorem rotRightCy_getLsbD_top : (rotRightCy a c).1.getLsbD 7 = c := by
  rw [rotRightCy_res, BitVec.getLsbD_cons, if_pos rfl]

theorem complement_getLsbD {k : Nat} (hk : k < 8) : (255 - a).getLsbD k = !a.getLsbD k := by
  rw [show 255 - a = ~~~a from BitVec.allOnes_sub_eq_not a, BitVec.getLsbD_not]
  simp [hk]

end

end Sys2Proof.Machine
end

section
/-! SUPPORT. The statements of 43_logical.md: the comparisons, the AND, XOR and OR groups, the rotates, and the
complements and the setting of Carry. -/

namespace Sys2Proof.Machine

/-- Settles O34: both forms write the flags of `SUB8` without a borrow in. -/
theorem compareWritesFlags : Obligations.CompareWritesFlags := by
  intro s i v hform
  have hexec : exec i s = .next (subFlags s v false) := by
    rcases hform with ⟨src, rfl, rfl⟩ | rfl
    · exact exec_cmp s src
    · exact exec_cpi s v
  refine ⟨_, hexec, ?_⟩
  rw [subFlags_f]
  refine ⟨sub8_z_iff_eq _ _ _, sub8_cy_iff_lt _ _ _, sub8_ac _ _ _ _, ?_, only_subFlags s v false⟩
  rw [← sub8_eq_sub s.cfg.acSubPolarity]
  exact sub8_result _ _ _ _

section
variable {s : State} {i : Instr}

/-- What an instruction does that writes a result to A, bit by bit `bits`, and the flags of that result with Carry 0. -/
theorem logical_next {res : Byte} {ac : Bool} {bits : Nat → Bool}
    (h : exec i s = .next ((s.setReg .a res).setFlags (flagsOf res ac false))) (hbits : ∀ k, res.getLsbD k = bits k) :
    ∃ t, exec i s = .next t ∧ (∀ k, (t.reg .a).getLsbD k = bits k) ∧ t.f.cy = false ∧ t.f.ac = ac
      ∧ ResultFlags t.f (t.reg .a) ∧ Only { regs := [.a], flags := true } s t := by
  refine ⟨_, h, ?_⟩
  rw [State.regA_setA_setFlags, State.setFlags_f]
  exact ⟨hbits, rfl, rfl, flagsOf_result res ac false, only_setA_setFlags s _ _⟩

/-- What an instruction does that rotates A left and `c` into bit 0. -/
theorem rotLeftCy_next {c : Bool} (h : exec i s = .next (rotateTo s (rotLeftCy (s.reg .a) c))) :
    ∃ t, exec i s = .next t ∧ (∀ k < 7, (t.reg .a).getLsbD (k + 1) = (s.reg .a).getLsbD k)
      ∧ (t.reg .a).getLsbD 0 = c ∧ t.f = { s.f with cy := (s.reg .a).getLsbD 7 }
      ∧ Only { regs := [.a], flags := true } s t := by
  refine ⟨_, h, ?_⟩
  rw [rotateTo_regA]
  exact ⟨fun _ => rotLeftCy_getLsbD_succ _ c, rotLeftCy_getLsbD_zero _ c, rotateTo_f s _, only_rotateTo s _⟩

/-- What an instruction does that rotates A right and `c` into bit 7. -/
theorem rotRightCy_next {c : Bool} (h : exec i s = .next (rotateTo s (rotRightCy (s.reg .a) c))) :
    ∃ t, exec i s = .next t ∧ (∀ k < 7, (t.reg .a).getLsbD k = (s.reg .a).getLsbD (k + 1))
      ∧ (t.reg .a).getLsbD 7 = c ∧ t.f = { s.f with cy := (s.reg .a).getLsbD 0 }
      ∧ Only { regs := [.a], flags := true } s t := by
  refine ⟨_, h, ?_⟩
  rw [rotateTo_regA]
  exact ⟨fun _ => rotRightCy_getLsbD _ c, rotRightCy_getLsbD_top _ c, rotateTo_f s _, only_rotateTo s _⟩

end

/-- Settles O40: each pair of forms is one shared update, whose result is the bitwise operation on A and the operand. -/
theorem logicalGroup : Obligations.LogicalGroup := by
  intro s v
  refine ⟨fun i hform => ?_, fun i hform => ?_, fun i hform => ?_⟩
  · have hexec : exec i s = .next (andTo s v) := by
      rcases hform with ⟨src, rfl, rfl⟩ | rfl
      · exact exec_ana s src
      · exact exec_ani s v
    rw [andTo_eq] at hexec
    exact logical_next hexec fun k => BitVec.getLsbD_and
  · have hexec : exec i s = .next (xorTo s v) := by
      rcases hform with ⟨src, rfl, rfl⟩ | rfl
      · exact exec_xra s src
      · exact exec_xri s v
    rw [xorTo_eq] at hexec
    exact logical_next hexec fun k => BitVec.getLsbD_xor
  · have hexec : exec i s = .next (orTo s v) := by
      rcases hform with ⟨src, rfl, rfl⟩ | rfl
      · exact exec_ora s src
      · exact exec_ori s v
    rw [orTo_eq] at hexec
    exact logical_next hexec fun k => BitVec.getLsbD_or

/-- Settles O41: a plain rotate carries in the bit it rotates out, a rotate through Carry the old Carry. -/
theorem rotates : Obligations.Rotates := fun s =>
  ⟨rotLeftCy_next (exec_rlc s), rotRightCy_next (exec_rrc s), rotLeftCy_next (exec_ral s),
    rotRightCy_next (exec_rar s)⟩

/-- Settles O42: the complement is the bitwise one, and `setCy` keeps the other four flags. -/
theorem complementsAndSetCarry : Obligations.ComplementsAndSetCarry := by
  intro s
  refine ⟨⟨_, exec_cma s, fun k hk => ?_, only_setReg s .a _⟩, ⟨_, exec_cmc s, s.setCy_f _, only_setCy s _⟩,
    ⟨_, exec_stc s, s.setCy_f _, only_setCy s _⟩⟩
  rw [State.reg_setReg_same]
  exact complement_getLsbD _ hk

end Sys2Proof.Machine
end

section
/-! SUPPORT. What the jumps, calls and returns do by their condition, and that a return undoes a call: the facts that the
statements of 44_branch.md are assembled from. -/

namespace Sys2Proof.Machine

/-! ### The taken forms (44_branch.md R312, R321, R330) -/

section
variable {s t : State} {len w : Word}

theorem callTo_of_room (h : s.callstack.length < s.cfg.callDepthMax) :
    callTo len w s = .ok { s with pc := w, callstack := (s.pc + len) :: s.callstack } :=
  (callTo_ok_iff _ _ _ _).2 ⟨h, rfl⟩

theorem returnFrom_of_cons {rest : List Word} (h : s.callstack = w :: rest) :
    returnFrom s = .ok { s with pc := w, callstack := rest } :=
  (returnFrom_ok_iff _ _).2 ⟨w, rest, h, rfl⟩

/-- A return takes back the return point of a call, so the call leaves nothing but `pc` written. -/
theorem returnFrom_of_callTo (h : callTo len w s = .ok t) : returnFrom t = .ok (s.setPc (s.pc + len)) := by
  obtain ⟨-, rfl⟩ := (callTo_ok_iff _ _ _ _).1 h
  exact returnFrom_of_cons rfl

/-- The target of `RST n` does not wrap (44_branch.md R350). -/
theorem rstTarget_toNat (n : BitVec 3) : (rstTarget n).toNat = 8 * n.toNat := by
  unfold rstTarget
  bv_omega

end

/-! ### The conditional forms (44_branch.md R311) -/

section
variable {s t : State} {w : Word} {i : Instr}

theorem whenTaken_of_cond {ccc : Cond} {len : Word} {taken : State → Except Fault State} (h : cond s.f ccc = true)
    (ht : taken s = .ok t) : whenTaken ccc len taken s = .next t :=
  (whenTaken_next_iff _ _ _ _ _).2 (.inl ⟨h, ht⟩)

theorem whenTaken_of_not_cond {ccc : Cond} {len : Word} {taken : State → Except Fault State}
    (h : cond s.f ccc = false) : whenTaken ccc len taken s = .next (s.setPc (s.pc + len)) :=
  (whenTaken_next_iff _ _ _ _ _).2 (.inr ⟨h, rfl⟩)

/-- A conditional jump writes `pc` alone, whichever way its condition goes. -/
theorem conditionalJump_next (ccc : Cond) (hi : exec i s = whenTaken ccc 3 (jumpTo w) s) :
    exec i s = .next { s with pc := if cond s.f ccc then w else s.pc + 3 } := by
  rw [hi]
  cases hc : cond s.f ccc with
  | true => exact whenTaken_of_cond hc rfl
  | false => exact whenTaken_of_not_cond hc

/-- A conditional call needs room on the Call Stack only where it is taken. -/
theorem conditionalCall_next (ccc : Cond) (hi : exec i s = whenTaken ccc 3 (callTo 3 w) s) :
    (cond s.f ccc = true → s.callstack.length < s.cfg.callDepthMax →
        exec i s = .next { s with pc := w, callstack := (s.pc + 3) :: s.callstack })
      ∧ (cond s.f ccc = false → exec i s = .next { s with pc := s.pc + 3 }) := by
  rw [hi]
  exact ⟨fun hc hroom => whenTaken_of_cond hc (callTo_of_room hroom), whenTaken_of_not_cond⟩

/-- A conditional return needs a return point only where it is taken. -/
theorem conditionalReturn_next (ccc : Cond) (hi : exec i s = whenTaken ccc 1 returnFrom s) :
    (∀ ret rest, cond s.f ccc = true → s.callstack = ret :: rest →
        exec i s = .next { s with pc := ret, callstack := rest })
      ∧ (cond s.f ccc = false → exec i s = .next { s with pc := s.pc + 1 }) := by
  rw [hi]
  exact ⟨fun _ _ hc htop => whenTaken_of_cond hc (returnFrom_of_cons htop), whenTaken_of_not_cond⟩

end

/-! ### The CALL class (10_state.md R36) -/

section
variable {s t : State}

theorem exec_call_of_room (w : Word) (h : s.callstack.length < s.cfg.callDepthMax) :
    exec (.call w) s = .next { s with pc := w, callstack := (s.pc + 3) :: s.callstack } :=
  (ofExcept_next_iff _ _).2 (callTo_of_room h)

theorem exec_rst_of_callTo {n : BitVec 3} (h : callTo 1 (rstTarget n) s = .ok t) : exec (.rst n) s = .next t :=
  (ofExcept_next_iff _ _).2 h

theorem exec_ret_of_returnFrom (h : returnFrom s = .ok t) : exec .ret s = .next t :=
  (ofExcept_next_iff _ _).2 h

/-- A call that answers a next state writes `pc` alone or pushes the address its own length further on. -/
theorem exec_callClass_next {i : Instr} (hc : isCallClass i = true) (h : exec i s = .next t) :
    (∃ w, t = s.setPc w) ∨ ∃ w, callTo (BitVec.ofNat 16 i.length) w s = .ok t := by
  cases i <;> simp only [isCallClass, Bool.false_eq_true] at hc <;> simp only [exec] at h
  case call w | rst n => exact .inr ⟨_, (ofExcept_next_iff _ _).1 h⟩
  case cnz w | cz w | cnc w | cc w | cpo w | cpe w | cp w | cm w =>
    exact (whenTaken_next h).imp_right fun ht => ⟨w, ht⟩

end

end Sys2Proof.Machine
end

section
/-! SUPPORT. The statements of 44_branch.md: the jumps, the calls, the returns, and a return right after a call. -/

namespace Sys2Proof.Machine

/-- Settles O44: each conditional call by its own condition, and `RST` as a call of one byte. -/
theorem calls : Obligations.Calls := by
  intro s w n
  refine ⟨?_, fun hroom => ?_⟩
  · simp only [List.forall_mem_cons]
    exact ⟨⟨fun _ => exec_call_of_room w, nofun⟩, conditionalCall_next .nz rfl, conditionalCall_next .z rfl,
      conditionalCall_next .nc rfl, conditionalCall_next .c rfl, conditionalCall_next .po rfl,
      conditionalCall_next .pe rfl, conditionalCall_next .p rfl, conditionalCall_next .m rfl, List.forall_mem_nil _⟩
  · have hcall : callTo 1 (rstTarget n) s = .ok _ := callTo_of_room hroom
    exact ⟨_, exec_rst_of_callTo hcall, rstTarget_toNat n, rfl, only_callTo _ _ _ _ hcall⟩

/-- Settles O47: a call that changed the Call Stack was taken, and the return pops what it pushed. -/
theorem callThenReturn : Obligations.CallThenReturn := by
  intro i s t hclass hnext hchanged
  rcases exec_callClass_next hclass hnext with ⟨w, rfl⟩ | ⟨w, hcall⟩
  · exact absurd rfl hchanged
  · exact exec_ret_of_returnFrom (returnFrom_of_callTo hcall)

/-- Settles O43: each conditional jump by its own condition. -/
theorem jumps : Obligations.Jumps := by
  intro s w
  simp only [List.forall_mem_cons]
  exact ⟨rfl, conditionalJump_next .nz rfl, conditionalJump_next .z rfl, conditionalJump_next .nc rfl,
    conditionalJump_next .c rfl, conditionalJump_next .po rfl, conditionalJump_next .pe rfl,
    conditionalJump_next .p rfl, conditionalJump_next .m rfl, List.forall_mem_nil _⟩

/-- Settles O45: each conditional return by its own condition. -/
theorem returns : Obligations.Returns := by
  intro s
  simp only [List.forall_mem_cons]
  exact ⟨⟨fun _ _ _ htop => exec_ret_of_returnFrom (returnFrom_of_cons htop), nofun⟩,
    conditionalReturn_next .nz rfl, conditionalReturn_next .z rfl, conditionalReturn_next .nc rfl,
    conditionalReturn_next .c rfl, conditionalReturn_next .po rfl, conditionalReturn_next .pe rfl,
    conditionalReturn_next .p rfl, conditionalReturn_next .m rfl, List.forall_mem_nil _⟩

end Sys2Proof.Machine
end

section
/-! SUPPORT. 16-bit accesses whose cells are known and the next state of each Stack instruction from them, the cells of
a push as the cells of the lowered `sp`, and an operand written back: the facts that the statements of 45_stack.md are
assembled from. -/

namespace Sys2Proof.Machine

/-! ### A 16-bit access whose cells are known (20_memory.md R63, R64) -/

theorem memRead2_of_slots {s : State} {a : Int} {x y : Nat} (hs : slots s a = .ok (x, y)) :
    memRead2 s a = .ok (cat (s.byteAt y) (s.byteAt x)) :=
  (memRead2_ok_iff s a _).2 ⟨x, y, hs, rfl⟩

/-- A store into known cells succeeds, with the low half in the first, the high half in the second, and nothing else. -/
theorem memWrite2_of_slots {s : State} {a : Int} {x y : Nat} (v : Word) (hs : slots s a = .ok (x, y)) :
    ∃ t, memWrite2 s a v = .ok t ∧ t.byteAt x = lo v ∧ t.byteAt y = hi v ∧ Only { mem := [x, y] } s t := by
  have hwrite := (memWrite2_ok_iff s _ a v).2 ⟨x, y, hs, rfl⟩
  obtain ⟨hlo, hhi⟩ := memWrite2_byteAt hs hwrite
  exact ⟨_, hwrite, hlo, hhi, only_store2 s x y _ _⟩

/-! ### The next state of each instruction (45_stack.md R361 to R365) -/

section
variable {s t : State} {v : Word} {x y : Nat}

theorem exec_push_of_memWrite2 (rp : PairPsw) (h : memWrite2 s (pushAddr s) (s.readPairPsw rp) = .ok t) :
    exec (.push rp) s = .next (t.setSp (s.sp - 2)) :=
  (ofExcept_next_iff _ _).2 ((bind_ok_iff _ _ _).2 ⟨t, h, rfl⟩)

theorem exec_pop_of_memRead2 (rp : PairPsw) (h : memRead2 s s.sp.toNat = .ok v) :
    exec (.pop rp) s = .next ((s.writePairPsw rp v).setSp (s.sp + 2)) :=
  (ofExcept_next_iff _ _).2 ((bind_ok_iff _ _ _).2 ⟨v, h, rfl⟩)

theorem exec_xthl_of_access2 (hread : memRead2 s s.sp.toNat = .ok v)
    (hwrite : memWrite2 s s.sp.toNat (s.pair .h) = .ok t) : exec .xthl s = .next (t.setPair .h v) :=
  (ofExcept_next_iff _ _).2
    ((bind_ok_iff _ _ _).2 ⟨v, hread, (bind_ok_iff _ _ _).2 ⟨t, hwrite, rfl⟩⟩)

/-- `PUSH` of every operand: its word in the two cells, low half first, and `sp` lowered. -/
theorem exec_push_of_slots (rp : PairPsw) (hs : slots s (pushAddr s) = .ok (x, y)) :
    ∃ t, exec (.push rp) s = .next t ∧ t.byteAt x = lo (s.readPairPsw rp) ∧ t.byteAt y = hi (s.readPairPsw rp)
      ∧ t.sp = s.sp - 2 ∧ Only { mem := [x, y], sp := true } s t := by
  obtain ⟨u, hwrite, hlo, hhi, honly⟩ := memWrite2_of_slots (s.readPairPsw rp) hs
  exact ⟨_, exec_push_of_memWrite2 rp hwrite, hlo, hhi, rfl, only_mem_sp _ s u _ honly⟩

/-- `POP` of every operand takes the word in the two cells. -/
theorem exec_pop_of_slots (rp : PairPsw) (hs : slots s s.sp.toNat = .ok (x, y)) :
    exec (.pop rp) s = .next ((s.writePairPsw rp (cat (s.byteAt y) (s.byteAt x))).setSp (s.sp + 2)) :=
  exec_pop_of_memRead2 rp (memRead2_of_slots hs)

end

/-! ### The word on top of the stack after a push (45_stack.md R360, 20_memory.md R62) -/

/-- The lowered `sp` is the address of the push modulo 65536. -/
theorem pushAddr_emod (s : State) : pushAddr s % 65536 = ((s.sp - 2).toNat : Int) := by
  have hsp := s.sp.isLt
  have htwo : (2 : Word).toNat = 2 := rfl
  simp only [pushAddr, BitVec.toNat_sub, htwo]
  omega

/-- Where a push has its cells, an access at the lowered `sp` has the same: under `ADDR_WRAP = wrap` both addresses are
taken modulo 65536, and under `ADDR_WRAP = fault` the address of the push is within range. -/
theorem slots_lowered_sp {s : State} {x y : Nat} (hs : slots s (pushAddr s) = .ok (x, y)) :
    slots s ((s.sp - 2).toNat : Int) = .ok (x, y) := by
  rw [← pushAddr_emod]
  cases haw : s.cfg.addrWrap with
  | wrap => simpa only [slots, effAddr_wrap s _ haw, Int.emod_emod, Int.emod_add_emod] using hs
  | fault =>
    obtain ⟨hx, -⟩ := (slots_ok_iff s _ x y).1 hs
    obtain ⟨h0, h1⟩ := inRange_of_effAddr_ok haw hx
    rwa [Int.emod_eq_of_lt h0 h1]

theorem memRead2_lowered_sp {s : State} {v : Word} (h : memRead2 s (pushAddr s) = .ok v) :
    memRead2 s ((s.sp - 2).toNat : Int) = .ok v := by
  obtain ⟨x, y, hs, hv⟩ := (memRead2_ok_iff s _ v).1 h
  exact (memRead2_ok_iff s _ v).2 ⟨x, y, slots_lowered_sp hs, hv⟩

theorem memRead2_setSp (s : State) (w : Word) (a : Int) : memRead2 (s.setSp w) a = memRead2 s a := by
  simp [memRead2, slots_congr s (s.setSp w) a rfl]

/-! ### An operand of {B, D, H, PSW} written back -/

theorem State.setReg_reg (s : State) (x : Reg) : s.setReg x (s.reg x) = s := by
  cases x <;> rfl

theorem State.setPair_pair (s : State) (p : Pair) : s.setPair p (s.pair p) = s := by
  rw [State.setPair, State.hi_pair, State.lo_pair, State.setReg_reg, State.setReg_reg]

/-- The unused bits of the flag byte do not come back. -/
theorem State.writePairPsw_readPairPsw (s : State) (rp : PairPsw) : s.writePairPsw rp (s.readPairPsw rp) = s := by
  cases rp with
  | pair p => exact s.setPair_pair p
  | psw =>
    rw [State.readPairPsw, State.writePairPsw, hi_cat, lo_cat, flagsOfByte_flagByte, State.setReg_reg]
    rfl

/-- `POP PSW` by the two bytes of the word. -/
theorem State.writePairPsw_psw_cat (s : State) (a b : Byte) :
    s.writePairPsw .psw (cat a b) = (s.setReg .a a).setFlags (flagsOfByte b) := by
  rw [State.writePairPsw, hi_cat, lo_cat]

/-- An operand is made of registers, flags and `PSW_UNUSED` alone. -/
theorem State.readPairPsw_congr {s t : State} (hr : t.r = s.r) (hf : t.f = s.f) (hcfg : t.cfg = s.cfg) (rp : PairPsw) :
    t.readPairPsw rp = s.readPairPsw rp := by
  cases rp <;> simp only [State.readPairPsw, State.pair, State.reg, hr, hf, hcfg]

theorem memWrite2_r_f_sp_cfg {s t : State} {a : Int} {v : Word} (h : memWrite2 s a v = .ok t) :
    t.r = s.r ∧ t.f = s.f ∧ t.sp = s.sp ∧ t.cfg = s.cfg := by
  obtain ⟨x, y, -, rfl⟩ := (memWrite2_ok_iff _ _ _ _).1 h
  exact ⟨rfl, rfl, rfl, rfl⟩

end Sys2Proof.Machine
end

section
/-! SUPPORT. The statements of 45_stack.md: `PUSH`, `POP`, one after the other, and `XTHL`. -/

namespace Sys2Proof.Machine

/-- Settles O48: the halves of the operand's word, which for `PSW` are A and the flag byte. -/
theorem pushStores : Obligations.PushStores := by
  intro s x y hs
  refine ⟨fun p => ?_, ?_⟩
  · obtain ⟨t, hnext, hlo, hhi, hsp, honly⟩ := exec_push_of_slots (.pair p) hs
    exact ⟨t, hnext, hlo.trans (s.lo_pair p), hhi.trans (s.hi_pair p), hsp, honly⟩
  · obtain ⟨t, hnext, hlo, hhi, hsp, honly⟩ := exec_push_of_slots .psw hs
    have hflags : t.byteAt x = flagByte s.cfg.pswUnused s.f := hlo.trans (lo_cat _ _)
    refine ⟨t, hnext, ?_, hhi.trans (hi_cat _ _), hsp, honly⟩
    rw [hflags, flagByte_toNat]

/-- Settles O49: the word of the two cells has the upper one in its high half. -/
theorem popLoads : Obligations.PopLoads := by
  intro s x y hs
  refine ⟨fun p => ?_, ?_⟩
  · exact ⟨_, exec_pop_of_slots (.pair p) hs, (s.reg_setPair_loReg p _).trans (lo_cat _ _),
      (s.reg_setPair_hiReg p _).trans (hi_cat _ _), rfl, only_popInto s (.pair p) _ _⟩
  · have hframe := only_popInto s .psw (cat (s.byteAt y) (s.byteAt x)) (s.sp + 2)
    have hnext := exec_pop_of_slots .psw hs
    rw [State.writePairPsw_psw_cat] at hframe hnext
    exact ⟨_, hnext, rfl, rfl, rfl, rfl, rfl, rfl, rfl, hframe⟩

/-- Settles O50: `POP` reads the word that `PUSH` stored, and writes the operand's own value to it. -/
theorem popAfterPush : Obligations.PopAfterPush := by
  intro s t rp hpush
  obtain ⟨u, hwrite, rfl⟩ := execPush_next rp s t hpush
  obtain ⟨hr, hf, hsp, hcfg⟩ := memWrite2_r_f_sp_cfg hwrite
  have haddr : pushAddr u = pushAddr s := by rw [pushAddr, hsp, pushAddr]
  have hread : memRead2 (u.setSp (s.sp - 2)) (s.sp - 2).toNat = .ok (s.readPairPsw rp) := by
    rw [memRead2_setSp, ← hsp]
    exact memRead2_lowered_sp (haddr ▸ memRead2_of_memWrite2 hwrite)
  have hown : (u.setSp (s.sp - 2)).readPairPsw rp = s.readPairPsw rp := State.readPairPsw_congr hr hf hcfg rp
  have hpop := exec_pop_of_memRead2 rp hread
  rw [← hown, State.writePairPsw_readPairPsw] at hpop
  exact ⟨_, hpop, hr, hf, BitVec.sub_add_cancel s.sp 2⟩

/-- Settles O51: the word read before the store goes to HL, and HL of before goes to the cells. -/
theorem xthlExchanges : Obligations.XthlExchanges := by
  intro s x y hs
  obtain ⟨u, hwrite, hlo, hhi, honly⟩ := memWrite2_of_slots (s.pair .h) hs
  exact ⟨_, exec_xthl_of_access2 (memRead2_of_slots hs) hwrite, (u.reg_setPair_loReg .h _).trans (lo_cat _ _),
    (u.reg_setPair_hiReg .h _).trans (hi_cat _ _), hlo.trans (s.lo_pair .h), hhi.trans (s.hi_pair .h),
    only_mem_hl _ s u _ honly⟩

end Sys2Proof.Machine
end

section
/-! SUPPORT. What the instructions under a setting answer, `EI`, `DI`, `RIM`, `SIM` and the bytes without a row, and the
statements of 46_machine_control.md. -/

namespace Sys2Proof.Machine

/-! ### The instructions under a setting (30_encoding.md R100; 46_machine_control.md R389, R390) -/

theorem exec_ei (s : State) : exec .ei s = interruptOp 0xFB (fun t => t) s := rfl

theorem exec_di (s : State) : exec .di s = interruptOp 0xF3 (fun t => t) s := rfl

theorem exec_rim (s : State) : exec .rim s = interruptOp 0x20 (fun t => t.setReg .a 0x00) s := rfl

theorem exec_sim (s : State) : exec .sim s = interruptOp 0x30 (fun t => t) s := rfl

section
variable {s : State}

theorem interruptOp_of_nop (op : Byte) (effect : State → State) (h : s.cfg.interruptOps = .nop) :
    interruptOp op effect s = .next (effect s) :=
  (interruptOp_next_iff _ _ _ _).2 ⟨h, rfl⟩

theorem interruptOp_of_refuse (op : Byte) (effect : State → State) (h : s.cfg.interruptOps = .refuse) :
    interruptOp op effect s = .fault (.unknownInstruction (.byte s.pc op)) := by
  rw [interruptOp, h]
  exact (ofExcept_fault_iff _ _).2 rfl

theorem execUndefined_of_resetOpcode {op : Byte} (h : s.cfg.resetOpcode = some op) :
    execUndefined op s = .next (resetInstruction s) :=
  (execUndefined_next_iff _ _ _).2 ⟨h, rfl⟩

theorem execUndefined_of_not_resetOpcode {op : Byte} (h : s.cfg.resetOpcode ≠ some op) :
    execUndefined op s = .fault (.unknownInstruction (.byte s.pc op)) := by
  rw [execUndefined, if_neg h]
  exact (ofExcept_fault_iff _ _).2 rfl

end

/-! ### The statements -/

/-- Settles O16: the reset instruction is the reset operation with `halted` set. -/
theorem resetInstructionResets : Obligations.ResetInstructionResets :=
  fun _ _ hop => execUndefined_of_resetOpcode hop

/-- Settles O53: each instruction is one update, of A or of the port, whose value and frame are known. -/
theorem inAndOut : Obligations.InAndOut := by
  intro s p
  have hin : (s.setReg .a (s.portRead p)).reg .a = s.portRead p := by rw [State.reg_setReg, if_pos rfl]
  have hout : (s.portWrite p (s.reg .a)).portRead p = s.reg .a := by rw [State.portRead_portWrite, if_pos rfl]
  exact ⟨⟨_, rfl, hin, only_setReg s .a _⟩, ⟨_, rfl, hout, only_portWrite s p _⟩⟩

/-- Settles O54: under `nop` an interrupt instruction answers its effect, which for `RIM` is a write to A. -/
theorem hltNopAndInterruptNops : Obligations.HltNopAndInterruptNops := by
  refine fun s => ⟨rfl, rfl, fun hnop => ?_⟩
  have hrim : (s.setReg .a 0x00).reg .a = 0x00 := by rw [State.reg_setReg, if_pos rfl]
  rw [exec_ei, exec_di, exec_sim, exec_rim]
  exact ⟨interruptOp_of_nop _ _ hnop, interruptOp_of_nop _ _ hnop, interruptOp_of_nop _ _ hnop,
    _, interruptOp_of_nop _ _ hnop, hrim, only_setReg s .a _⟩

/-- Settles O55: the four interrupt instructions under `refuse`, and the bytes without a row under no `RESET_OPCODE` of
their own. -/
theorem unknownInstructions : Obligations.UnknownInstructions := by
  refine fun s => ⟨fun hrefuse => ?_, fun op hop => execUndefined_of_not_resetOpcode hop⟩
  rw [exec_ei, exec_di, exec_rim, exec_sim]
  exact ⟨interruptOp_of_refuse _ _ hrefuse, interruptOp_of_refuse _ _ hrefuse, interruptOp_of_refuse _ _ hrefuse,
    interruptOp_of_refuse _ _ hrefuse⟩

end Sys2Proof.Machine
end

section
/-! SUPPORT. A block line by its row of the table: the class of the instruction it stands for, the words that transfer
control with the condition that takes each, and what acting on each outcome gives. The facts that the statements of
47_block_mode.md are assembled from. -/

namespace Sys2Proof.Machine

/-! ### The class of a checked line (47_block_mode.md R403, R406) -/

/-- Everything but the Branch instructions, `HLT` and the reset instruction is ordinary (R406). -/
theorem blockClass_ordinary {i : Instr} (hbranch : Instr.category i ≠ .branch) (hhlt : i ≠ .hlt)
    (hreset : isUndefined i = false) : blockClass i = .ordinary := by
  cases i
  case jmp | jnz | jz | jnc | jc | jpo | jpe | jp | jm | call | cnz | cz | cnc | cc | cpo | cpe | cp | cm | ret | rnz
      | rz | rnc | rc | rpo | rpe | rp | rm | pchl | rst => exact absurd rfl hbranch
  case hlt => exact absurd rfl hhlt
  case undefined => cases hreset
  all_goals rfl

/-- The class of a row with an address operand does not depend on the address. -/
theorem blockClass_of_mem_forms {cfg : Params} {row : Text × Form} (h : row ∈ forms cfg) {mk : Word → Instr}
    (hmk : row.2 = .addr mk) (w : Word) : blockClass (mk w) = blockClass (mk 0) := by
  have hall : ∀ row ∈ forms { Params.default with interruptOps := .nop }, ∀ mk, row.2 = .addr mk →
      ∀ w, blockClass (mk w) = blockClass (mk 0) := by
    simp only [forms, dataForms, arithmeticForms, logicalForms, branchForms, stackForms, controlForms, interruptForms,
      List.forall_mem_append, List.forall_mem_cons, List.not_mem_nil, Form.addr.injEq, reduceCtorEq, forall_eq',
      false_imp_iff, implies_true, and_true, true_and]
    and_intros <;> intro w <;> rfl
  exact hall row ((forms_sublist cfg).subset h) mk hmk w

/-- A checked line with a 16-bit operand comes from a row with an address operand, or from `LXI`. -/
theorem checkForm_withAddr {cfg : Params} {form : Form} {ops : Text} {mk : Word → Instr} {pos : Nat} {a : AddrToken}
    (h : checkForm cfg form ops = .ok (.withAddr mk pos a)) : form = .addr mk ∨ ∃ rp, mk = .lxi rp := by
  cases form <;> simp only [checkForm, except_bind_ok_iff, except_pure_ok_iff, reduceCtorEq, and_false,
    exists_false] at h
  case mov =>
    obtain ⟨_, -, d, -, s, -, h⟩ := h
    split at h <;> cases h
  case lxi =>
    obtain ⟨-, -, rp, -, a, -, h⟩ := h
    cases h
    exact .inr ⟨rp, rfl⟩
  case addr mk =>
    obtain ⟨-, -, a, -, h⟩ := h
    cases h
    exact .inl rfl

/-- The class of a checked line is that of the instruction it resolves to. -/
theorem blockClass_of_resolve {cfg : Params} {labels : List (Text × Nat)} {word ops : Text} {c : Checked} {i : Instr}
    (hc : checkLine cfg word ops = .ok c) (hi : resolve cfg labels c = .ok i) : c.blockClass = blockClass i := by
  cases c with
  | plain j => cases hi; rfl
  | reset =>
    simp only [resolve, resetEncoding] at hi
    split at hi <;> cases hi
    rfl
  | withAddr mk pos a =>
    obtain ⟨w, -, hw⟩ := (except_bind_ok_iff _ _ _).1 hi
    cases hw
    unfold checkLine at hc
    split at hc
    · cases hc
    · next form hform =>
      rcases checkForm_withAddr hc with rfl | ⟨rp, rfl⟩
      · rcases mem_of_lookupForm cfg hform with ⟨row, hrow, hmk⟩ | hreset
        · exact (blockClass_of_mem_forms hrow hmk w).symm
        · cases hreset
      · rfl

/-! ### Lines of the table's words (35_assembler.md R122, R132 to R136) -/

/-- The table lists its rows in the order of `Instr`, so an instruction gives the place of its row. -/
theorem lookupForm_row (cfg : Params) (i : Instr) {word : Text} {form : Form}
    (h : (forms cfg)[i.ctorIdx]? = some (word, form)) : lookupForm cfg word = some form :=
  lookupForm_of_mem cfg (List.mem_of_getElem? h)

theorem checkLine_reset {cfg : Params} {word : Text} (h : lookupForm cfg word = some .reset) :
    checkLine cfg word [] = .ok .reset := by
  rw [checkLine, h]
  rfl

theorem checkLine_rst (cfg : Params) (n : BitVec 3) :
    checkLine cfg "RST".toList (Instr.operandText (.rst n)) = .ok (.plain (.rst n)) := by
  have hrow : lookupForm cfg "RST".toList = some .vector := lookupForm_row cfg (.rst n) rfl
  simp only [checkLine, hrow, Instr.operandText, checkForm, arity1_token (vectorChar_spec n).1, checkVector_text,
    except_bind_ok]
  rfl

theorem isToken_of_isIdent {name : Text} (h : isIdent name = true) : IsToken name := by
  obtain ⟨-, hsep, htrim⟩ := isIdent_token name h
  exact ⟨hsep, htrim⟩

theorem checkLine_lxi_label (cfg : Params) (rp : PairSp) {name : Text} (hi : isIdent name = true)
    (hl : literal16 name = none) :
    checkLine cfg "LXI".toList (PairSp.text rp ++ ',' :: name) = .ok (.withAddr (.lxi rp) 2 (.label name)) := by
  have hrow : lookupForm cfg "LXI".toList = some .lxi := lookupForm_row cfg (.lxi rp 0) rfl
  have hops : arity2 (PairSp.text rp ++ ',' :: name) = .ok (PairSp.text rp, name) := by
    rw [List.append_cons]
    exact arity2_tokens (isToken_pairSp rp) (isToken_of_isIdent hi)
  simp only [checkLine, hrow, checkForm, hops, checkPairSp_text, checkAddr_label cfg 2 name hi hl, except_bind_ok]
  rfl

/-! ### Acting on an outcome (47_block_mode.md R404) -/

section
variable {b : BlockRun} {name : Text} {s : State}

theorem actOn_notTaken {ok : Bool} :
    actOn b .notTaken ok s = .ok { s with block := some { b with idx := b.idx + 1 } } := rfl

theorem actOn_absent {isCall : Bool} (h : isBlock b name = false) :
    actOn b (.target name isCall) true s = .error (.undefinedLabel name) := by
  simp only [actOn, h]
  rfl

/-- A literal names no block, whatever the keys of the block map are (R410). -/
theorem actOn_literal {isCall : Bool} : actOn b (.target name isCall) false s = .error (.undefinedLabel name) := rfl

theorem actOn_jump (h : isBlock b name = true) :
    actOn b (.target name false) true s = .ok { s with block := some { b with cur := name, idx := 0 } } := by
  simp only [actOn, h]
  rfl

theorem actOn_call_of_room (h : isBlock b name = true) (hroom : b.callstack.length < s.cfg.callDepthMax) :
    actOn b (.target name true) true s = .ok { s with
      block := some { b with cur := name, idx := 0, callstack := (b.cur, b.idx + 1) :: b.callstack } } := by
  simp only [actOn, h, if_neg (Nat.not_le_of_lt hroom)]
  rfl

theorem actOn_call_of_full (h : isBlock b name = true) (hfull : s.cfg.callDepthMax ≤ b.callstack.length) :
    actOn b (.target name true) true s = .error (.stackOverflow (.cursor b.cur b.idx)) := by
  simp only [actOn, h, if_pos hfull]
  rfl

theorem actOn_ret_of_cons {ok : Bool} {label : Text} {idx : Nat} {rest : List (Text × Nat)}
    (h : b.callstack = (label, idx) :: rest) :
    actOn b .ret ok s = .ok { s with block := some { b with cur := label, idx := idx, callstack := rest } } := by
  simp only [actOn, h]
  rfl

theorem actOn_ret_of_nil {ok : Bool} (h : b.callstack = []) :
    actOn b .ret ok s = .error (.stackUnderflow (.cursor b.cur b.idx)) := by
  simp only [actOn, h]
  rfl

end

/-! ### The words that transfer control, each with whether it is taken (47_block_mode.md R407 to R409) -/

def jumpWords (f : Flags) : List (String × Bool) :=
  [("JMP", true), ("JNZ", !f.z), ("JZ", f.z), ("JNC", !f.cy), ("JC", f.cy), ("JPO", !f.p), ("JPE", f.p), ("JP", !f.s),
    ("JM", f.s)]

def callWords (f : Flags) : List (String × Bool) :=
  [("CALL", true), ("CNZ", !f.z), ("CZ", f.z), ("CNC", !f.cy), ("CC", f.cy), ("CPO", !f.p), ("CPE", f.p), ("CP", !f.s),
    ("CM", f.s)]

def returnWords (f : Flags) : List (String × Bool) :=
  [("RET", true), ("RNZ", !f.z), ("RZ", f.z), ("RNC", !f.cy), ("RC", f.cy), ("RPO", !f.p), ("RPE", f.p), ("RP", !f.s),
    ("RM", f.s)]

/-- The class of the jumps or of the calls. -/
def transferClass (isCall : Bool) (ccc : Option Cond) : BlockClass := if isCall then .call ccc else .jump ccc

/-- The word heads a row of the table for jumps, or calls, that the flags take or do not, as `x` says. -/
def IsTransfer (cfg : Params) (f : Flags) (isCall : Bool) (x : String × Bool) : Prop :=
  ∃ mk ccc, lookupForm cfg x.1.toList = some (.addr mk) ∧ blockClass (mk 0) = transferClass isCall ccc
    ∧ condHolds f ccc = x.2

/-- The word heads a row of the table for a return that the flags take or do not, as `x` says. -/
def IsReturn (cfg : Params) (f : Flags) (x : String × Bool) : Prop :=
  ∃ i ccc, lookupForm cfg x.1.toList = some (.none0 i) ∧ blockClass i = .ret ccc ∧ condHolds f ccc = x.2

section
variable (cfg : Params)

theorem isTransfer_row {f : Flags} {word : String} {taken isCall : Bool} (mk : Word → Instr) (ccc : Option Cond)
    (hrow : (forms cfg)[(mk 0).ctorIdx]? = some (word.toList, .addr mk))
    (hclass : blockClass (mk 0) = transferClass isCall ccc) (htaken : condHolds f ccc = taken) :
    IsTransfer cfg f isCall (word, taken) :=
  ⟨mk, ccc, lookupForm_row cfg (mk 0) hrow, hclass, htaken⟩

theorem isReturn_row {f : Flags} {word : String} {taken : Bool} (i : Instr) (ccc : Option Cond)
    (hrow : (forms cfg)[i.ctorIdx]? = some (word.toList, .none0 i)) (hclass : blockClass i = .ret ccc)
    (htaken : condHolds f ccc = taken) : IsReturn cfg f (word, taken) :=
  ⟨i, ccc, lookupForm_row cfg i hrow, hclass, htaken⟩

theorem isTransfer_of_mem_jumpWords (f : Flags) : ∀ x ∈ jumpWords f, IsTransfer cfg f false x := by
  simp only [jumpWords, List.forall_mem_cons]
  exact ⟨isTransfer_row cfg .jmp none rfl rfl rfl, isTransfer_row cfg .jnz (some .nz) rfl rfl rfl,
    isTransfer_row cfg .jz (some .z) rfl rfl rfl, isTransfer_row cfg .jnc (some .nc) rfl rfl rfl,
    isTransfer_row cfg .jc (some .c) rfl rfl rfl, isTransfer_row cfg .jpo (some .po) rfl rfl rfl,
    isTransfer_row cfg .jpe (some .pe) rfl rfl rfl, isTransfer_row cfg .jp (some .p) rfl rfl rfl,
    isTransfer_row cfg .jm (some .m) rfl rfl rfl, List.forall_mem_nil _⟩

theorem isTransfer_of_mem_callWords (f : Flags) : ∀ x ∈ callWords f, IsTransfer cfg f true x := by
  simp only [callWords, List.forall_mem_cons]
  exact ⟨isTransfer_row cfg .call none rfl rfl rfl, isTransfer_row cfg .cnz (some .nz) rfl rfl rfl,
    isTransfer_row cfg .cz (some .z) rfl rfl rfl, isTransfer_row cfg .cnc (some .nc) rfl rfl rfl,
    isTransfer_row cfg .cc (some .c) rfl rfl rfl, isTransfer_row cfg .cpo (some .po) rfl rfl rfl,
    isTransfer_row cfg .cpe (some .pe) rfl rfl rfl, isTransfer_row cfg .cp (some .p) rfl rfl rfl,
    isTransfer_row cfg .cm (some .m) rfl rfl rfl, List.forall_mem_nil _⟩

theorem isReturn_of_mem_returnWords (f : Flags) : ∀ x ∈ returnWords f, IsReturn cfg f x := by
  simp only [returnWords, List.forall_mem_cons]
  exact ⟨isReturn_row cfg .ret none rfl rfl rfl, isReturn_row cfg .rnz (some .nz) rfl rfl rfl,
    isReturn_row cfg .rz (some .z) rfl rfl rfl, isReturn_row cfg .rnc (some .nc) rfl rfl rfl,
    isReturn_row cfg .rc (some .c) rfl rfl rfl, isReturn_row cfg .rpo (some .po) rfl rfl rfl,
    isReturn_row cfg .rpe (some .pe) rfl rfl rfl, isReturn_row cfg .rp (some .p) rfl rfl rfl,
    isReturn_row cfg .rm (some .m) rfl rfl rfl, List.forall_mem_nil _⟩

/-- A data word with an address operand. -/
theorem lookupForm_dataAddr : ∀ word ∈ ["LDA", "STA", "LHLD", "SHLD"],
    ∃ mk, lookupForm cfg word.toList = some (.addr mk) ∧ blockClass (mk 0) = .ordinary := by
  simp only [List.forall_mem_cons]
  exact ⟨⟨_, lookupForm_row cfg (.lda 0) rfl, rfl⟩, ⟨_, lookupForm_row cfg (.sta 0) rfl, rfl⟩,
    ⟨_, lookupForm_row cfg (.lhld 0) rfl, rfl⟩, ⟨_, lookupForm_row cfg (.shld 0) rfl, rfl⟩, List.forall_mem_nil _⟩

end

/-! ### What a checked line does -/

/-- A jump or a call line (47_block_mode.md R407, R408). -/
theorem runLine_transfer (b : BlockRun) (word : Text) {mk : Word → Instr} (pos : Nat) (a : AddrToken) (s : State)
    {isCall : Bool} {ccc : Option Cond} (h : blockClass (mk 0) = transferClass isCall ccc) :
    runLine b word (.withAddr mk pos a) s = ofExcept (actOn b
      (if condHolds s.f ccc then .target (targetName a) isCall else .notTaken) (targetIsLabel a) s) := by
  cases isCall with
  | false => exact runLine_jump b word mk pos a s ccc h
  | true => exact runLine_call b word mk pos a s ccc h

theorem runLine_addressOnly (b : BlockRun) (word : Text) {c : Checked} (s : State) (h : c.blockClass = .addressOnly) :
    runLine b word c s = .fault (.unknownInstruction (.word word)) := by
  simp only [runLine, h]
  rfl

theorem runLine_ordinary (b : BlockRun) (word : Text) {c : Checked} {i : Instr} (s : State)
    (h : c.blockClass = .ordinary) (hi : resolve s.cfg [] c = .ok i) :
    runLine b word c s = runOrdinary b .normal i s := by
  simp only [runLine, h, hi]

theorem runLine_hlt (b : BlockRun) (word : Text) (s : State) :
    runLine b word (.plain .hlt) s = .next { s with halted := true } := rfl

theorem runLine_reset (b : BlockRun) (word : Text) (s : State) :
    runLine b word .reset s = .next (resetInstruction s) := rfl

/-! ### The step (47_block_mode.md R405) -/

/-- A run in block mode that has not ended and is within its budget, with the cursor at a line. -/
def AtLine (s : State) (b : BlockRun) (line : Line) : Prop :=
  s.halted = false ∧ s.block = some b ∧ s.steps < s.cfg.stepLimit ∧ (blockLines b b.cur)[b.idx]? = some line

section
variable {s : State} {b : BlockRun}

/-- The checks before a line's own: the budget, then the end of the block. -/
theorem step_of_fetchLine_error {k : Fault} (hh : s.halted = false) (hb : s.block = some b)
    (hf : fetchLine b (countStep s) = .error k) : step s = .fault k := by
  simp only [step, hh, hb, blockStep, hf, Bool.false_eq_true, if_false]

theorem fetchLine_budget (h : s.cfg.stepLimit < s.steps) :
    fetchLine b s = .error (.stepLimitExceeded (.cursor b.cur b.idx)) := by
  have hbudget : checkBudget (.cursor b.cur b.idx) s = .error (.stepLimitExceeded (.cursor b.cur b.idx)) := if_pos h
  rw [fetchLine, hbudget]
  rfl

theorem fetchLine_end (hs : s.steps ≤ s.cfg.stepLimit) (h : (blockLines b b.cur).length ≤ b.idx) :
    fetchLine b s = .error (.ambiguousHalt b.cur) := by
  rw [fetchLine, (checkBudget_ok_iff _ s).2 hs, List.getElem?_eq_none h]
  rfl

theorem AtLine.step_eq {line : Line} {c : Checked} (h : AtLine s b line)
    (hc : checkLine s.cfg line.mnemonic line.operands = .ok c) : step s = runLine b line.mnemonic c (countStep s) := by
  obtain ⟨hh, hb, hs, hl⟩ := h
  exact step_line s b line c hh hb hs hl hc

/-- A jump or a call to an identifier that is no literal. -/
theorem AtLine.step_label {x : String × Bool} {isCall : Bool} {name : Text} (h : AtLine s b ⟨x.1.toList, name⟩)
    (hx : IsTransfer s.cfg s.f isCall x) (hi : isIdent name = true) (hl : literal16 name = none) :
    step s = ofExcept (actOn b (if x.2 then .target name isCall else .notTaken) true (countStep s)) := by
  obtain ⟨mk, ccc, hrow, hclass, htaken⟩ := hx
  rw [h.step_eq (checkLine_label s.cfg _ name mk hrow hi hl), runLine_transfer b _ 1 _ _ hclass, ← htaken]
  rfl

/-- A jump or a call to a literal, which names no block (R410). -/
theorem AtLine.step_literal {x : String × Bool} {isCall : Bool} {w : Word} (h : AtLine s b ⟨x.1.toList, text16 w⟩)
    (hx : IsTransfer s.cfg s.f isCall x) (hm : inMap s.cfg w.toNat = true) :
    step s = ofExcept (actOn b (if x.2 then .target (text16 w) isCall else .notTaken) false (countStep s)) := by
  obtain ⟨mk, ccc, hrow, hclass, htaken⟩ := hx
  rw [h.step_eq (checkLine_literal s.cfg _ mk w hrow hm), runLine_transfer b _ 1 _ _ hclass, ← htaken]
  rfl

theorem AtLine.step_return {x : String × Bool} (h : AtLine s b ⟨x.1.toList, []⟩) (hx : IsReturn s.cfg s.f x) :
    step s = ofExcept (actOn b (if x.2 then .ret else .notTaken) true (countStep s)) := by
  obtain ⟨i, ccc, hrow, hclass, htaken⟩ := hx
  rw [h.step_eq (checkLine_none s.cfg _ i hrow), runLine_ret b _ i _ ccc hclass, ← htaken]
  rfl

end

end Sys2Proof.Machine
end

section
/-! SUPPORT. The statements of 47_block_mode.md: ordinary lines, the lines that move or end a run, and the faults of the
mode. -/

namespace Sys2Proof.Machine

/-- Settles O56: the line's class is that of its instruction, and acting on `Normal` moves the cursor alone. -/
theorem blockOrdinaryLine : Obligations.BlockOrdinaryLine := by
  intro s b line c i hh hb hs hl hc hi hbranch hhlt hreset
  have hclass : c.blockClass = .ordinary :=
    (blockClass_of_resolve hc hi).trans (blockClass_ordinary hbranch hhlt hreset)
  rw [step_line s b line c hh hb hs hl hc, runLine_ordinary b _ (countStep s) hclass hi]
  rfl

/-- Settles O57: each word by its row and condition, and then by what acting on its outcome gives. -/
theorem blockBranches : Obligations.BlockBranches := by
  intro s b line name hh hb hs hl
  have hat : AtLine s b line := ⟨hh, hb, hs, hl⟩
  refine ⟨fun x hx hi hlit hline => ?_, fun x hx hi hlit hline => ?_, fun x hx hline => ?_, fun hline => ?_,
    fun hword hnone hline => ?_⟩ <;> subst hline
  · rw [hat.step_label (isTransfer_of_mem_jumpWords s.cfg s.f x hx) hi hlit]
    refine ⟨fun ht hblock => ?_, fun ht hblock => ?_, fun ht => ?_⟩ <;> rw [ht]
    · exact congrArg ofExcept (actOn_jump hblock)
    · exact congrArg ofExcept (actOn_absent hblock)
    · exact congrArg ofExcept (actOn_notTaken (s := countStep s))
  · rw [hat.step_label (isTransfer_of_mem_callWords s.cfg s.f x hx) hi hlit]
    refine ⟨fun ht hblock hroom => ?_, fun ht hblock hfull => ?_, fun ht hblock => ?_, fun ht => ?_⟩ <;> rw [ht]
    · exact congrArg ofExcept (actOn_call_of_room (s := countStep s) hblock hroom)
    · exact congrArg ofExcept (actOn_call_of_full (s := countStep s) hblock hfull)
    · exact congrArg ofExcept (actOn_absent hblock)
    · exact congrArg ofExcept (actOn_notTaken (s := countStep s))
  · rw [hat.step_return (isReturn_of_mem_returnWords s.cfg s.f x hx)]
    refine ⟨fun label idx rest ht hcalls => ?_, fun ht hcalls => ?_, fun ht => ?_⟩ <;> rw [ht]
    · exact congrArg ofExcept (actOn_ret_of_cons hcalls)
    · exact congrArg ofExcept (actOn_ret_of_nil hcalls)
    · exact congrArg ofExcept (actOn_notTaken (s := countStep s))
  · rw [hat.step_eq (checkLine_none s.cfg _ _ (lookupForm_row s.cfg .hlt rfl))]
    exact runLine_hlt b _ (countStep s)
  · rw [hat.step_eq (checkLine_reset (lookupForm_reset s.cfg name hword hnone))]
    exact runLine_reset b name (countStep s)

/-- Settles O58, in the order of the checks: the budget, the end of the block, and then the line. -/
theorem blockFaults : Obligations.BlockFaults := by
  intro s b hh hb
  refine ⟨fun hs => ?_, fun hs hend => ?_, fun line hs hl => ?_⟩
  · exact step_of_fetchLine_error hh hb (fetchLine_budget (s := countStep s) (Nat.lt_succ_of_le hs))
  · exact step_of_fetchLine_error hh hb (fetchLine_end (s := countStep s) hs hend)
  have hat : AtLine s b line := ⟨hh, hb, hs, hl⟩
  refine ⟨fun hline => ?_, fun n hline => ?_, fun w hm x hx hline => ?_,
    fun name hi hlit => ⟨fun word hword hline => ?_, fun rp hline => ?_⟩⟩ <;> subst hline
  · rw [hat.step_eq (checkLine_none s.cfg _ _ (lookupForm_row s.cfg .pchl rfl))]
    exact runLine_addressOnly b _ _ rfl
  · rw [hat.step_eq (checkLine_rst s.cfg n)]
    exact runLine_addressOnly b _ _ rfl
  · obtain ⟨isCall, htransfer⟩ : ∃ isCall, IsTransfer s.cfg s.f isCall x := by
      rcases List.mem_append.1 (show x ∈ jumpWords s.f ++ callWords s.f from hx) with hjump | hcall
      · exact ⟨false, isTransfer_of_mem_jumpWords s.cfg s.f x hjump⟩
      · exact ⟨true, isTransfer_of_mem_callWords s.cfg s.f x hcall⟩
    rw [hat.step_literal htransfer hm]
    refine ⟨fun ht => ?_, fun ht => ?_⟩ <;> rw [ht]
    · exact congrArg ofExcept actOn_literal
    · exact congrArg ofExcept (actOn_notTaken (s := countStep s))
  · obtain ⟨mk, hrow, hclass⟩ := lookupForm_dataAddr s.cfg word hword
    rw [hat.step_eq (checkLine_label s.cfg _ name mk hrow hi hlit)]
    exact runLine_dataLabel b _ mk 1 name _ hclass
  · rw [hat.step_eq (checkLine_lxi_label s.cfg rp hi hlit)]
    exact runLine_dataLabel b _ (.lxi rp) 2 name _ rfl

end Sys2Proof.Machine
end

section
/-! SUPPORT. The statements of 60_exceptions.md and 70_reset_and_hazards.md: the faults of the Call Stack, what a fault
leaves, the parameters, and the reset operation. -/

namespace Sys2Proof.Machine

/-! ### The faults of the Call Stack (60_exceptions.md R446, R447) -/

section
variable {s : State} {i : Instr} {k : Fault}

theorem callTo_of_full (len w : Word) (h : s.cfg.callDepthMax ≤ s.callstack.length) :
    callTo len w s = .error (.stackOverflow (.pc s.pc)) := by
  have hpush : callPush s (s.pc + len) = .error (.stackOverflow (.pc s.pc)) := if_pos h
  rw [callTo, hpush]
  rfl

theorem returnFrom_of_nil (h : s.callstack = []) : returnFrom s = .error (.stackUnderflow (.pc s.pc)) := by
  have hpop : callPop s = .error (.stackUnderflow (.pc s.pc)) := by
    rw [callPop, h]
    rfl
  rw [returnFrom, hpop]
  rfl

theorem exec_of_ofExcept_error {x : Except Fault State} (hi : exec i s = ofExcept x) (hx : x = .error k) :
    exec i s = .fault k :=
  hi.trans ((ofExcept_fault_iff _ _).2 hx)

/-- A conditional form that is taken raises what its taken form raises (44_branch.md R311). -/
theorem conditional_fault (ccc : Cond) {len : Word} {taken : State → Except Fault State}
    (hi : exec i s = whenTaken ccc len taken s) (ht : taken s = .error k) (hc : cond s.f ccc = true) :
    exec i s = .fault k :=
  exec_of_ofExcept_error (hi.trans (if_pos hc)) ht

end

/-- Settles O46: a full Call Stack faults every taken call, an empty one every taken return. -/
theorem callStackFaults : Obligations.CallStackFaults := by
  refine fun s w n => ⟨fun hfull => ?_, fun hempty => ?_⟩
  · have hcall := callTo_of_full 3 w hfull
    simp only [List.forall_mem_cons]
    exact ⟨fun _ => exec_of_ofExcept_error rfl hcall, conditional_fault .nz rfl hcall, conditional_fault .z rfl hcall,
      conditional_fault .nc rfl hcall, conditional_fault .c rfl hcall, conditional_fault .po rfl hcall,
      conditional_fault .pe rfl hcall, conditional_fault .p rfl hcall, conditional_fault .m rfl hcall,
      fun _ => exec_of_ofExcept_error rfl (callTo_of_full 1 (rstTarget n) hfull), List.forall_mem_nil _⟩
  · have hret := returnFrom_of_nil hempty
    simp only [List.forall_mem_cons]
    exact ⟨fun _ => exec_of_ofExcept_error rfl hret, conditional_fault .nz rfl hret, conditional_fault .z rfl hret,
      conditional_fault .nc rfl hret, conditional_fault .c rfl hret, conditional_fault .po rfl hret,
      conditional_fault .pe rfl hret, conditional_fault .p rfl hret, conditional_fault .m rfl hret,
      List.forall_mem_nil _⟩

/-! ### What a fault leaves (60_exceptions.md R460, R461) -/

/-- Settles O10: the run ends at the faulting step, and Execute ends at the failed Assemble. -/
theorem faultsArePrecise : Obligations.FaultsArePrecise := by
  refine ⟨fun s k n hh hstep => ?_, fun s src e he => ?_⟩
  · rw [runLoop, if_neg (by simp [hh]), hstep]
    rfl
  · rw [executeSource, he]

/-! ### The parameters (70_reset_and_hazards.md R482 (b)) -/

theorem resetOp_cfg (s : State) : (resetOp s).cfg = s.cfg := rfl

/-- Acting on an outcome writes the block run alone. -/
theorem actOn_cfg {b : BlockRun} {o : HandlerOutcome} {ok : Bool} {s t : State} (h : actOn b o ok s = .ok t) :
    t.cfg = s.cfg := by
  rcases actOn_ok h with rfl | ⟨b', rfl, -⟩ <;> rfl

theorem runLine_cfg {b : BlockRun} {word : Text} {c : Checked} {s t : State} (h : runLine b word c s = .next t) :
    t.cfg = s.cfg := by
  obtain ⟨o, ok, u, rfl | ⟨i, hu⟩ | rfl, ht⟩ := runLine_next h
  · exact actOn_cfg ht
  · exact (actOn_cfg ht).trans (exec_cfg i s u hu)
  · exact (actOn_cfg ht).trans (resetOp_cfg s)

/-- Settles O13: by the mode of the step, from `exec_cfg` and `runLine_cfg`. -/
theorem stepKeepsParameters : Obligations.StepKeepsParameters := by
  intro s t h
  obtain ⟨-, ⟨-, hlin⟩ | ⟨b, -, hblk⟩⟩ := step_next s t h
  · obtain ⟨i, u, -, -, -, hu, rfl⟩ := linearStep_next s t hlin
    exact (advance_cfg i u).trans (exec_cfg i (countStep s) u hu)
  · obtain ⟨word, c, -, ht⟩ := blockStep_next b s t hblk
    exact runLine_cfg (s := countStep s) ht

/-! ### The reset operation (70_reset_and_hazards.md R480, R481) -/

/-- Reset reads the parameters alone. -/
theorem resetOp_congr {s t : State} (h : s.cfg = t.cfg) : resetOp s = resetOp t := congrArg State.initial h

theorem initial_reg (cfg : Params) (x : Reg) : (State.initial cfg).reg x = cfg.resetReg8 := by
  cases x <;> rfl

/-- Settles O14: reset reads the parameters alone and keeps them. -/
theorem resetIsConstant : Obligations.ResetIsConstant :=
  ⟨fun s => resetOp_congr (resetOp_cfg s), fun _ _ => resetOp_congr, fun _ => rfl⟩

/-- Settles O15: the reset state by its fields; no cell of memory or port differs from its default. -/
theorem resetLeaves : Obligations.ResetLeaves :=
  fun s => ⟨initial_reg s.cfg, rfl, rfl, rfl, fun _ => rfl, fun _ => rfl, rfl, rfl, rfl, rfl, rfl, rfl, rfl⟩

end Sys2Proof.Machine
end
